-- ==== Sys2Proof/Word.lean ====
section
/-! DEFINITION. The two value widths of the block (00_scope.md R9): bytes and 16-bit words. All values are unsigned. -/

namespace Sys2Proof

/-- An 8-bit value, 0..255 (00_scope.md R9). -/
abbrev Byte := BitVec 8

/-- A 16-bit value, 0..65535 (00_scope.md R9). -/
abbrev Word := BitVec 16

end Sys2Proof
end

