-- ==== Sys2Proof/Syntax.lean ====
section
/-! DEFINITION. The instruction set, one constructor per row of spec/opcode_table.json: the request PDUs of layer W
(30_encoding.md R100 to R111) with the operand fields their layouts give them, and the commands of layer C
(R120, R121), whose operands are the port registers and buffers. -/

namespace Sys2Proof

/-- The four banks of a datastore (00_scope.md R11, 10_state.md R33). -/
inductive BankName where
  | di  -- discreteInputs, 1-bit elements, `BANK` = 0
  | co  -- coils, 1-bit elements, `BANK` = 1
  | ir  -- inputRegisters, 16-bit elements, `BANK` = 2
  | hr  -- holdingRegisters, 16-bit elements, `BANK` = 3
  deriving DecidableEq, Repr

/-- The two layers of the instruction set (00_scope.md R2): a request PDU, selected by its function code, and a
command, selected by the byte written to `CMD`. The two layers number their instructions independently. -/
inductive Layer where
  | wire
  | command
  deriving DecidableEq, Repr

/-- One constructor per row of the opcode table. A request PDU carries the fields of its layout (30_encoding.md
R101 to R108); `bytes` are the data bytes present after the byte count, at most as many as the count says
(45_request_exec.md R235: bytes beyond the layout are ignored). -/
inductive Instr where
  -- layer W: request PDUs
  | rdCoils (start qty : Word)
  | rdDiscrete (start qty : Word)
  | rdHolding (start qty : Word)
  | rdInput (start qty : Word)
  | wrCoil (addr value : Word)
  | wrReg (addr value : Word)
  | wrCoils (start qty : Word) (count : Byte) (bytes : List Byte)
  | wrRegs (start qty : Word) (count : Byte) (bytes : List Byte)
  | maskWr (addr andMask orMask : Word)
  | rwRegs (rstart rqty wstart wqty : Word) (count : Byte) (bytes : List Byte)
  | unrecognized (fc : Byte)
  -- layer C: commands
  | crc16
  | lrc
  | hexenc
  | hexdec
  | mbapBuild
  | mbapParse
  | encRtu
  | encAscii
  | encMbap
  | decRtu
  | decAscii
  | decMbap
  | dsNew
  | dsNewDefault
  | bankRd
  | bankWr
  | execReq
  | slaveRtu
  | slaveAscii
  | slaveMbap
  | nextTxid
  | req
  | mreqRtu
  | mreqAscii
  | mreqMbap
  | rspRtu
  | rspAscii
  | rspMbap
  | start
  | stop
  | undefinedCmd (code : Byte)
  deriving DecidableEq, Repr

/-- The layer an instruction belongs to: the format of its row in the opcode table. -/
def Instr.layer : Instr → Layer
  | .rdCoils _ _ | .rdDiscrete _ _ | .rdHolding _ _ | .rdInput _ _ | .wrCoil _ _ | .wrReg _ _ => .wire
  | .wrCoils _ _ _ _ | .wrRegs _ _ _ _ | .maskWr _ _ _ | .rwRegs _ _ _ _ _ _ | .unrecognized _ => .wire
  | .crc16 | .lrc | .hexenc | .hexdec | .mbapBuild | .mbapParse => .command
  | .encRtu | .encAscii | .encMbap | .decRtu | .decAscii | .decMbap => .command
  | .dsNew | .dsNewDefault | .bankRd | .bankWr | .execReq => .command
  | .slaveRtu | .slaveAscii | .slaveMbap | .nextTxid | .req => .command
  | .mreqRtu | .mreqAscii | .mreqMbap | .rspRtu | .rspAscii | .rspMbap => .command
  | .start | .stop | .undefinedCmd _ => .command

end Sys2Proof
end

