-- ==== Sys2Proof/WellFormed.lean ====
section
/-! DEFINITION. Which instructions are well-formed: the ones some bytes encode. A request that carries data holds at
most as many data bytes as its byte count says (45_request_exec.md R235), the default rows hold a code that no other
row of their layer has (30_encoding.md R111, R121). -/

namespace Sys2Proof

/-- The ten function codes of 30_encoding.md R100. -/
def functionCodes : List Nat := [0x01, 0x02, 0x03, 0x04, 0x05, 0x06, 0x0F, 0x10, 0x16, 0x17]

/-- The thirty command codes of 30_encoding.md R120. -/
def commandCodes : List Nat :=
  [0x01, 0x02, 0x03, 0x04, 0x05, 0x06, 0x08, 0x09, 0x0A, 0x0C, 0x0D, 0x0E, 0x10, 0x11, 0x12, 0x13, 0x18] ++
  [0x1C, 0x1D, 0x1E, 0x20, 0x21, 0x24, 0x25, 0x26, 0x28, 0x29, 0x2A, 0x30, 0x31]

/-- A byte that is one of the ten function codes (30_encoding.md R100). -/
def isFunction (fc : Byte) : Bool := functionCodes.contains fc.toNat

/-- A byte that is one of the thirty command codes (30_encoding.md R120). -/
def isCommand (code : Byte) : Bool := commandCodes.contains code.toNat

/-- Well-formedness: the checks on a term of `Instr` that its types do not make. -/
def Instr.wf : Instr → Bool
  | .wrCoils _ _ count bytes => bytes.length ≤ count.toNat
  | .wrRegs _ _ count bytes => bytes.length ≤ count.toNat
  | .rwRegs _ _ _ _ count bytes => bytes.length ≤ count.toNat
  | .unrecognized fc => !isFunction fc
  | .undefinedCmd code => !isCommand code
  | .rdCoils _ _ | .rdDiscrete _ _ | .rdHolding _ _ | .rdInput _ _ | .wrCoil _ _ | .wrReg _ _ | .maskWr _ _ _ => true
  | .crc16 | .lrc | .hexenc | .hexdec | .mbapBuild | .mbapParse => true
  | .encRtu | .encAscii | .encMbap | .decRtu | .decAscii | .decMbap => true
  | .dsNew | .dsNewDefault | .bankRd | .bankWr | .execReq => true
  | .slaveRtu | .slaveAscii | .slaveMbap | .nextTxid | .req => true
  | .mreqRtu | .mreqAscii | .mreqMbap | .rspRtu | .rspAscii | .rspMbap => true
  | .start | .stop => true

end Sys2Proof
end

