-- ==== Sys2Proof/Decode.lean ====
section
/-! DEFINITION. Field assembly (30_encoding.md part 2), the decoder of both layers and the encoder. The decoder is
total on any bytes and refuses by name; every function code and every command code has a meaning, so the only
refusals are bytes that are too few to hold an instruction. -/

namespace Sys2Proof

/-- `hi8(w) = w[15:8]` (00_scope.md R9). -/
def hi8 (w : Word) : Byte := w.extractLsb' 8 8

/-- `lo8(w) = w[7:0]` (00_scope.md R9). -/
def lo8 (w : Word) : Byte := w.extractLsb' 0 8

/-- `u16be(a, b) = a * 256 + b` (00_scope.md R9). -/
def u16be (a b : Byte) : Word := a ++ b

/-- `u16le(a, b) = b * 256 + a` (00_scope.md R9). -/
def u16le (a b : Byte) : Word := b ++ a

/-- `be(x)`: the two bytes of a word, high byte first (30_encoding.md R88, 46_master.md R273). -/
def be (w : Word) : List Byte := [hi8 w, lo8 w]

/-- Why bytes hold no instruction: `empty`, there is no code byte; `shortPdu`, a request PDU is shorter than the fixed
part of its function's layout (45_request_exec.md R235 (a), answered by a discard); `notOneByte`, a command is one
byte (10_state.md R21, `CMD` is 8 bits). -/
inductive DecodeError where
  | empty
  | shortPdu (fc : Byte)
  | notOneByte
  deriving DecidableEq, Repr

/-- The command code map (30_encoding.md R120); every other code is undefined (R121). -/
def decodeCmd (code : Byte) : Instr :=
  match code.toNat with
  | 0x01 => .crc16
  | 0x02 => .lrc
  | 0x03 => .hexenc
  | 0x04 => .hexdec
  | 0x05 => .mbapBuild
  | 0x06 => .mbapParse
  | 0x08 => .encRtu
  | 0x09 => .encAscii
  | 0x0A => .encMbap
  | 0x0C => .decRtu
  | 0x0D => .decAscii
  | 0x0E => .decMbap
  | 0x10 => .dsNew
  | 0x11 => .dsNewDefault
  | 0x12 => .bankRd
  | 0x13 => .bankWr
  | 0x18 => .execReq
  | 0x1C => .slaveRtu
  | 0x1D => .slaveAscii
  | 0x1E => .slaveMbap
  | 0x20 => .nextTxid
  | 0x21 => .req
  | 0x24 => .mreqRtu
  | 0x25 => .mreqAscii
  | 0x26 => .mreqMbap
  | 0x28 => .rspRtu
  | 0x29 => .rspAscii
  | 0x2A => .rspMbap
  | 0x30 => .start
  | 0x31 => .stop
  | _ => .undefinedCmd code

/-- The request PDUs (30_encoding.md R101 to R108). Bytes beyond the layout are dropped, and of the data after a byte
count at most that many bytes are kept (45_request_exec.md R235 (c)). An unrecognized function code needs no more
than its one byte (R253). -/
def decodePdu : List Byte → Except DecodeError Instr
  | [] => .error .empty
  | fc :: rest =>
    match fc.toNat, rest with
    | 0x01, a :: b :: c :: d :: _ => .ok (.rdCoils (u16be a b) (u16be c d))
    | 0x02, a :: b :: c :: d :: _ => .ok (.rdDiscrete (u16be a b) (u16be c d))
    | 0x03, a :: b :: c :: d :: _ => .ok (.rdHolding (u16be a b) (u16be c d))
    | 0x04, a :: b :: c :: d :: _ => .ok (.rdInput (u16be a b) (u16be c d))
    | 0x05, a :: b :: c :: d :: _ => .ok (.wrCoil (u16be a b) (u16be c d))
    | 0x06, a :: b :: c :: d :: _ => .ok (.wrReg (u16be a b) (u16be c d))
    | 0x0F, a :: b :: c :: d :: n :: t => .ok (.wrCoils (u16be a b) (u16be c d) n (t.take n.toNat))
    | 0x10, a :: b :: c :: d :: n :: t => .ok (.wrRegs (u16be a b) (u16be c d) n (t.take n.toNat))
    | 0x16, a :: b :: c :: d :: e :: f :: _ => .ok (.maskWr (u16be a b) (u16be c d) (u16be e f))
    | 0x17, a :: b :: c :: d :: e :: f :: g :: h :: n :: t =>
      .ok (.rwRegs (u16be a b) (u16be c d) (u16be e f) (u16be g h) n (t.take n.toNat))
    | _, _ => if isFunction fc then .error (.shortPdu fc) else .ok (.unrecognized fc)

/-- The decoder of both layers: a request PDU, or the byte written to `CMD`. -/
def decode : Layer → List Byte → Except DecodeError Instr
  | .wire, bs => decodePdu bs
  | .command, [] => .error .empty
  | .command, [c] => .ok (decodeCmd c)
  | .command, _ :: _ :: _ => .error .notOneByte

/-- The bytes of an instruction: a request PDU by its layout (30_encoding.md R101 to R108), a command by its code
(R120). -/
def encode : Instr → List Byte
  | .rdCoils s q => 0x01#8 :: (be s ++ be q)
  | .rdDiscrete s q => 0x02#8 :: (be s ++ be q)
  | .rdHolding s q => 0x03#8 :: (be s ++ be q)
  | .rdInput s q => 0x04#8 :: (be s ++ be q)
  | .wrCoil a v => 0x05#8 :: (be a ++ be v)
  | .wrReg a v => 0x06#8 :: (be a ++ be v)
  | .wrCoils s q c d => 0x0F#8 :: (be s ++ be q ++ c :: d)
  | .wrRegs s q c d => 0x10#8 :: (be s ++ be q ++ c :: d)
  | .maskWr a m o => 0x16#8 :: (be a ++ be m ++ be o)
  | .rwRegs rs rq ws wq c d => 0x17#8 :: (be rs ++ be rq ++ be ws ++ be wq ++ c :: d)
  | .unrecognized fc => [fc]
  | .crc16 => [0x01#8]
  | .lrc => [0x02#8]
  | .hexenc => [0x03#8]
  | .hexdec => [0x04#8]
  | .mbapBuild => [0x05#8]
  | .mbapParse => [0x06#8]
  | .encRtu => [0x08#8]
  | .encAscii => [0x09#8]
  | .encMbap => [0x0A#8]
  | .decRtu => [0x0C#8]
  | .decAscii => [0x0D#8]
  | .decMbap => [0x0E#8]
  | .dsNew => [0x10#8]
  | .dsNewDefault => [0x11#8]
  | .bankRd => [0x12#8]
  | .bankWr => [0x13#8]
  | .execReq => [0x18#8]
  | .slaveRtu => [0x1C#8]
  | .slaveAscii => [0x1D#8]
  | .slaveMbap => [0x1E#8]
  | .nextTxid => [0x20#8]
  | .req => [0x21#8]
  | .mreqRtu => [0x24#8]
  | .mreqAscii => [0x25#8]
  | .mreqMbap => [0x26#8]
  | .rspRtu => [0x28#8]
  | .rspAscii => [0x29#8]
  | .rspMbap => [0x2A#8]
  | .start => [0x30#8]
  | .stop => [0x31#8]
  | .undefinedCmd code => [code]

/-- The bytes of a table word: byte `i` is bits `8i+7..8i` of `w` below `nbits`, and 0 above; ten bytes, the longest
fixed part of a layout (45_request_exec.md R235). -/
def tableBytes (nbits w : Nat) : List Byte :=
  (List.range 10).map fun i => if 8 * i < nbits then BitVec.ofNat 8 (w >>> (8 * i)) else 0#8

/-- The layer a table word is read in. The table numbers both layers in the same eight bits, and a word does not say
its layer: a word whose first byte is a command code is read as the command, since `CMD` is what the machine fetches
from; a word that is a function code only is read as a request PDU; the rest is an undefined command. Log entry 2. -/
def tableLayer (nbits w : Nat) : Layer :=
  match tableBytes nbits w with
  | c :: _ => if isCommand c then .command else if isFunction c then .wire else .command
  | [] => .command

/-- The instruction the decoder reads from a table word (the host's hook). -/
def decodeTableWord (nbits w : Nat) : Option Instr :=
  match tableLayer nbits w with
  | .wire => (decode .wire (tableBytes nbits w)).toOption
  | .command => (decode .command ((tableBytes nbits w).take 1)).toOption

end Sys2Proof
end

