-- ==== Sys2Proof/Config.lean ====
section
/-! DEFINITION. The parameters of the block (00_scope.md R8) and the values the spec leaves open. A value the spec
leaves open is an uninterpreted constant: it has no body, so nothing can be proved of it. -/

namespace Sys2Proof.Config

/-- `BUF_MAX`, the capacity in bytes of `RXBUF`, `TXBUF` and `PDUBUF` (00_scope.md R8, D4). -/
abbrev bufMax : Nat := 1024

/-- `DATA_MAX`, the capacity in entries of `DATABUF` (00_scope.md R8, D4). -/
abbrev dataMax : Nat := 2000

/-- The two granularities at which host accesses interleave with a command (20_memory.md R57). -/
inductive Arb where
  | element
  | request
  deriving DecidableEq, Repr

/-- `ARB`: this hardware takes `ELEMENT` (00_scope.md R8, 20_memory.md R57, D12). -/
def arb : Arb := .element

/-- `BANK_INIT`: what the element at an address of a bank of a unit holds when its datastore is created. OPEN in the
spec (10_state.md R33, D13): uninterpreted, log entry 4. A bit bank takes bit 0 of it. -/
opaque bankInit : Byte → BankName → Nat → Word

/-- `TXID_RESET`: the transaction counter after reset. OPEN in the spec (10_state.md R26, D14): uninterpreted, log
entry 5. -/
opaque txidReset : Word

/-- The four buffers, for naming what they hold at reset. -/
inductive BufName where
  | rx
  | tx
  | pdu
  | data
  deriving DecidableEq, Repr

/-- What a buffer entry holds at reset: unspecified (10_state.md R40, 70_reset_and_hazards.md R341), so
uninterpreted, log entry 6. A byte buffer takes the low eight bits. -/
opaque bufReset : BufName → Nat → Word

/-- What a `CRCTAB` entry holds at reset: unspecified (10_state.md R27), so uninterpreted, log entry 6. -/
opaque crcTabReset : Nat → Word

/-- The bytes of the n-th draw of undefined contents, by index: `TXBUF` after a slave discard (60_exceptions.md
R307). Log entry 7. -/
opaque freeByte : Nat → Nat → Byte

/-- The words of the n-th draw of unspecified contents, by index: `DATABUF` after a failed `RSP_*` (46_master.md
R276). Log entry 7. -/
opaque freeWord : Nat → Nat → Word

end Sys2Proof.Config
end

