-- ==== Sys2Proof/Machine/State.lean ====
section
/-! DEFINITION. The state of the block as plain data (10_state.md), the outside world's pending actions, the state
after reset, and the reasons a step can stop. -/

namespace Sys2Proof.Machine

/-- `STATUS` values: the closed list of 60_exceptions.md R300 (93_implementation_defined.md U21). Their numbers are
`Status.code`. -/
inductive Status where
  | ok
  | rxTimeout
  | wrongMessageLen
  | wrongCrc
  | wrongLrc
  | startCharNotFound
  | endCharsNotFound
  | wrongTransactionId
  | wrongProtocolId
  | wrongResponseAddress
  | wrongResponseRegAddress
  | wrongResponseQuantity
  | wrongResponseValue
  | wrongResponseAndMask
  | wrongResponseOrMask
  | zeroRegistersRequested
  | tooManyRegistersRequested
  | exceptionIllegalFunction
  | exceptionIllegalDataAddress
  | exceptionIllegalDataValue
  | exceptionSlaveDeviceFailure
  | exceptionOther
  | discardedShort
  | discardedChecksum
  | discardedFraming
  | discardedUnit
  | stopRequested
  | sizeRange
  | outOfRange
  | duplicateUnit
  | unitIdRange
  | noSuchUnit
  | busy
  | badCommand
  deriving DecidableEq, Repr

/-- `SPHASE`, the slave phase (10_state.md R30). -/
inductive SPhase where
  | idle
  | receiving
  | decoding
  | dispatching
  | replying
  deriving DecidableEq, Repr

/-- `MPHASE`, the master phase (10_state.md R31). -/
inductive MPhase where
  | idle
  | building
  | sending
  | awaitingFirstByte
  | receiving
  | validating
  | done
  | errored
  deriving DecidableEq, Repr

/-- One bank: its length, fixed at construction (10_state.md R32), and the elements written since, by address, strictly
rising. An unlisted address below `len` still holds its `BANK_INIT` value (R33; log entry 4). -/
structure BankMem (w : Nat) where
  len   : Nat
  cells : List (Nat × BitVec w)
  deriving DecidableEq, Repr

/-- A datastore: the four banks of one unit (10_state.md R33), bit banks of 1-bit and word banks of 16-bit elements. -/
structure Store where
  di : BankMem 1
  co : BankMem 1
  ir : BankMem 16
  hr : BankMem 16
  deriving DecidableEq, Repr

/-- A byte buffer and its length register (10_state.md R29, R21). -/
structure ByteBuf where
  cells : List Byte
  len   : BitVec 11
  deriving DecidableEq, Repr

/-- `DATABUF` and `DATALEN` (10_state.md R29, R21). -/
structure WordBuf where
  cells : List Word
  len   : BitVec 11
  deriving DecidableEq, Repr

/-- One access of the host port: `BankRead(u, b, a)` or `BankWrite(u, b, a, v)` (44_bank.md R218). -/
inductive HostAccess where
  | read (u : Byte) (b : BankName) (a : Nat)
  | write (u : Byte) (b : BankName) (a : Nat) (v : Word)
  deriving DecidableEq, Repr

/-- A host access that falls inside a command: it is made after `wait` more of the sequencer's element accesses,
counted from the slot before it (20_memory.md R57). -/
structure Slot where
  wait : Nat
  acc  : HostAccess
  deriving DecidableEq, Repr

/-- Why an element access fails (44_bank.md R214, R215). -/
inductive BankErr where
  | noSuchUnit
  | outOfRange
  deriving DecidableEq, Repr

/-- What the host port answers to one access (44_bank.md R218). -/
inductive HostReply where
  | value (v : Word)
  | written
  | failed (e : BankErr)
  deriving DecidableEq, Repr

/-- The port registers by name (10_state.md R21). -/
inductive PortReg where
  | cmd
  | status
  | res
  | fc
  | unit
  | bank
  | addr
  | qty
  | val
  | val2
  | waddr
  | wqty
  | mtid
  | proto
  | mlen
  | len0
  | len1
  | len2
  | len3
  | rxLen
  | txLen
  | pduLen
  | dataLen
  deriving DecidableEq, Repr

/-- The byte buffers by name (10_state.md R29). -/
inductive ByteBufId where
  | rx
  | tx
  | pdu
  deriving DecidableEq, Repr

/-- What the outside world does next (10_state.md R20): the controller's accesses to the port and the buffers
between commands, a command start with the host accesses that fall while it runs, a host access between commands,
the stop signal, reset. `overlap` is a controller access to the port made before the command just started has
ended, which 70_reset_and_hazards.md R350 (a) leaves undefined. -/
inductive Input where
  | command (code : Byte) (during : List Slot)
  | portWrite (r : PortReg) (v : BitVec 32)
  | portRead (r : PortReg)
  | bufWrite (b : ByteBufId) (i : Fin 1024) (v : Byte)
  | bufRead (b : ByteBufId) (i : Fin 1024)
  | dataWrite (i : Fin 2000) (v : Word)
  | dataRead (i : Fin 2000)
  | host (a : HostAccess)
  | stop
  | reset
  | overlap
  deriving DecidableEq, Repr

/-- The state. Port registers (10_state.md R21), buffers (R29), internal state (R26, R27, R28, R30, R31),
datastores (R32, R33), and the model's own fields at the end: what the outside world does next, the host accesses
inside the running command, what the two read ports have answered, and the counter that draws free values. -/
structure State where
  cmd      : Byte
  status   : Status
  res      : Word
  fc       : Byte
  unit     : Byte
  bank     : BitVec 2
  addr     : Word
  qty      : Word
  val      : Word
  val2     : Word
  waddr    : Word
  wqty     : Word
  mtid     : Word
  proto    : Word
  mlen     : Word
  len0     : BitVec 32
  len1     : BitVec 32
  len2     : BitVec 32
  len3     : BitVec 32
  rx       : ByteBuf
  tx       : ByteBuf
  pdu      : ByteBuf
  data     : WordBuf
  txid     : Word
  crcTab   : List Word
  crcValid : Bool
  run      : Bool
  sphase   : SPhase
  mphase   : MPhase
  stores   : List (Nat × Store)
  inputs   : List Input
  hostQ    : List Slot
  hostOut  : List HostReply
  portOut  : List (BitVec 32)
  freeCtr  : Nat
  deriving DecidableEq, Repr

/-- A byte buffer right after reset: length 0, contents unspecified (10_state.md R40; log entry 6). -/
def ByteBuf.reset (b : Config.BufName) : ByteBuf :=
  { cells := (List.range Config.bufMax).map fun i => (Config.bufReset b i).setWidth 8, len := 0 }

/-- `DATABUF` right after reset: length 0, contents unspecified (10_state.md R40; log entry 6). -/
def WordBuf.reset : WordBuf :=
  { cells := (List.range Config.dataMax).map fun i => Config.bufReset .data i, len := 0 }

/-- The machine right after reset (10_state.md R40, 70_reset_and_hazards.md R341): port registers 0, `TXID` at the open
`TXID_RESET`, the CRC table not built, `RUN` 0, both phases `Idle`, no datastore. Nothing is pending outside. -/
def State.reset : State where
  cmd := 0
  status := .ok
  res := 0
  fc := 0
  unit := 0
  bank := 0
  addr := 0
  qty := 0
  val := 0
  val2 := 0
  waddr := 0
  wqty := 0
  mtid := 0
  proto := 0
  mlen := 0
  len0 := 0
  len1 := 0
  len2 := 0
  len3 := 0
  rx := ByteBuf.reset .rx
  tx := ByteBuf.reset .tx
  pdu := ByteBuf.reset .pdu
  data := WordBuf.reset
  txid := Config.txidReset
  crcTab := (List.range 256).map Config.crcTabReset
  crcValid := false
  run := false
  sphase := .idle
  mphase := .idle
  stores := []
  inputs := []
  hostQ := []
  hostOut := []
  portOut := []
  freeCtr := 0

/-- Why the machine stops. The spec lets nothing stop the block (60_exceptions.md R308); the one behaviour it leaves
undefined stops the model. -/
inductive Fault where
  /-- A controller access to the port made while a command runs: 70_reset_and_hazards.md R350 (a) and R359 (4) leave
  the result undefined. Raised by `step` alone, on the input `overlap`. Safe: the model stops where the hardware
  goes on in a way the spec does not say. Log entry 8. -/
  | portOverlap
  deriving DecidableEq, Repr

/-- Why the model gives an instruction no meaning. -/
inductive Refusal where
  /-- An instruction whose arm of `exec` has no meaning yet. Raised by such an arm alone. Safe. -/
  | notModelled (mnemonic : String)
  deriving DecidableEq, Repr

end Sys2Proof.Machine
end

