-- ==== Sys2Proof/Machine/Ops.lean ====
section
/-! DEFINITION. The named operations over buffers, registers and bank elements, the host port's accesses and their
interleaving with a command, and the three ways an operation fails: a local error, an exception reply (the block's
taking of an exception) and a discard. -/

namespace Sys2Proof.Machine

/-! Lists of key and value in rising order of key: the datastores by unit id, a bank's elements by address. -/

/-- The value at a key. -/
def assocGet {α : Type} : List (Nat × α) → Nat → Option α
  | [], _ => none
  | (k, v) :: t, a => if k = a then some v else assocGet t a

/-- Set the value at a key, keeping the keys strictly rising. -/
def assocPut {α : Type} : List (Nat × α) → Nat → α → List (Nat × α)
  | [], a, v => [(a, v)]
  | (k, w) :: t, a, v =>
    if a < k then (a, v) :: (k, w) :: t
    else if a = k then (a, v) :: t
    else (k, w) :: assocPut t a v

/-- The keys rise strictly and are all below `n`: the canonical form of a list of elements. -/
def assocWf {α : Type} (n : Nat) : List (Nat × α) → Bool
  | [] => true
  | [(k, _)] => decide (k < n)
  | (k, _) :: (l, w) :: t => decide (k < l) && assocWf n ((l, w) :: t)

/-! Banks (44_bank.md). -/

/-- `BANK` 0 is `DI`, 1 `CO`, 2 `IR`, 3 `HR` (10_state.md R21). -/
def bankOfSel (sel : BitVec 2) : BankName :=
  match sel.toNat with
  | 0 => .di
  | 1 => .co
  | 2 => .ir
  | _ => .hr

/-- `LEN[u][b]` of a datastore (10_state.md R32). -/
def Store.len (d : Store) : BankName → Nat
  | .di => d.di.len
  | .co => d.co.len
  | .ir => d.ir.len
  | .hr => d.hr.len

/-- The value last written to an element, as 16 bits, or none if it was never written (44_bank.md R219 (a)). -/
def Store.written (d : Store) (b : BankName) (a : Nat) : Option Word :=
  match b with
  | .di => (assocGet d.di.cells a).map (·.setWidth 16)
  | .co => (assocGet d.co.cells a).map (·.setWidth 16)
  | .ir => assocGet d.ir.cells a
  | .hr => assocGet d.hr.cells a

/-- Write one element: bit 0 of the value for a bit bank, all 16 bits for a word bank (44_bank.md R215). -/
def Store.put (d : Store) (b : BankName) (a : Nat) (v : Word) : Store :=
  match b with
  | .di => { d with di := { d.di with cells := assocPut d.di.cells a (v.setWidth 1) } }
  | .co => { d with co := { d.co with cells := assocPut d.co.cells a (v.setWidth 1) } }
  | .ir => { d with ir := { d.ir with cells := assocPut d.ir.cells a v } }
  | .hr => { d with hr := { d.hr with cells := assocPut d.hr.cells a v } }

/-- What an element of a new bank holds (10_state.md R33): `BANK_INIT`, one bit of it in a bit bank. -/
def initElem (u : Byte) (b : BankName) (a : Nat) : Word :=
  match b with
  | .di | .co => ((Config.bankInit u b a).setWidth 1).setWidth 16
  | .ir | .hr => Config.bankInit u b a

/-- What an element holds: the value last written, or its `BANK_INIT` value (20_memory.md R60). -/
def Store.elem (d : Store) (u : Byte) (b : BankName) (a : Nat) : Word :=
  (d.written b a).getD (initElem u b a)

/-- The datastore of a unit; none means `PRESENT[u] = 0` (10_state.md R32). -/
def State.store (s : State) (u : Byte) : Option Store := assocGet s.stores u.toNat

/-- `BankRead(u, b, a)` (44_bank.md R214): a bit element appears in bit 0. -/
def bankRead (s : State) (u : Byte) (b : BankName) (a : Nat) : Except BankErr Word :=
  match s.store u with
  | none => .error .noSuchUnit
  | some d => if a < d.len b then .ok (d.elem u b a) else .error .outOfRange

/-- `BankWrite(u, b, a, v)` (44_bank.md R215). -/
def bankWrite (s : State) (u : Byte) (b : BankName) (a : Nat) (v : Word) : Except BankErr State :=
  match s.store u with
  | none => .error .noSuchUnit
  | some d =>
    if a < d.len b then .ok { s with stores := assocPut s.stores u.toNat (d.put b a v) } else .error .outOfRange

/-! The host port (44_bank.md R218, 20_memory.md R57). -/

/-- One host access: an atomic element access whose outcome is reported to the host; a failed one changes nothing. -/
def hostDo (a : HostAccess) (s : State) : State :=
  match a with
  | .read u b i =>
    match bankRead s u b i with
    | .ok v => { s with hostOut := s.hostOut ++ [.value v] }
    | .error e => { s with hostOut := s.hostOut ++ [.failed e] }
  | .write u b i v =>
    match bankWrite s u b i v with
    | .ok s' => { s' with hostOut := s'.hostOut ++ [.written] }
    | .error e => { s with hostOut := s.hostOut ++ [.failed e] }

/-- Make the host accesses that are due, and count one of the sequencer's accesses off the first that is not. -/
def hostDue : List Slot → State → State
  | [], s => { s with hostQ := [] }
  | ⟨0, a⟩ :: q, s => hostDue q (hostDo a s)
  | ⟨n + 1, a⟩ :: q, s => { s with hostQ := ⟨n, a⟩ :: q }

/-- The host's turn before an element access of the sequencer: under `ARB = ELEMENT` the accesses due are made here,
under `REQUEST` none is (20_memory.md R57). -/
def State.hostTurn (s : State) : State :=
  match Config.arb with
  | .element => hostDue s.hostQ s
  | .request => s

/-- The host accesses that are left when a command ends are made after it, in the host's order (20_memory.md R57, R60). -/
def State.hostFlush (s : State) : State :=
  { s.hostQ.foldl (fun t slot => hostDo slot.acc t) s with hostQ := [] }

/-! The sequencer's element accesses (20_memory.md R56: one element each, in ascending order). -/

/-- One element read of the sequencer, after the host's turn. -/
def seqRead (u : Byte) (b : BankName) (a : Nat) (s : State) : State × Except BankErr Word :=
  (s.hostTurn, bankRead s.hostTurn u b a)

/-- One element write of the sequencer, after the host's turn; a failed one changes no element. -/
def seqWrite (u : Byte) (b : BankName) (a : Nat) (v : Word) (s : State) : State × Except BankErr Unit :=
  match bankWrite s.hostTurn u b a v with
  | .ok s' => (s', .ok ())
  | .error e => (s.hostTurn, .error e)

/-- `MemRead((u, b, a), n)` (00_scope.md R11): `n` element reads, ascending, stopping at the first that fails. -/
def seqReads (u : Byte) (b : BankName) : Nat → Nat → State → State × Except BankErr (List Word)
  | _, 0, s => (s, .ok [])
  | a, n + 1, s =>
    match seqRead u b a s with
    | (s1, .error e) => (s1, .error e)
    | (s1, .ok v) =>
      match seqReads u b (a + 1) n s1 with
      | (s2, .error e) => (s2, .error e)
      | (s2, .ok vs) => (s2, .ok (v :: vs))

/-- `MemWrite((u, b, a), n, V)` (00_scope.md R11): one element write per value, ascending, stopping at the first that
fails; elements already written stay written (45_request_exec.md R237). -/
def seqWrites (u : Byte) (b : BankName) : Nat → List Word → State → State × Except BankErr Unit
  | _, [], s => (s, .ok ())
  | a, v :: vs, s =>
    match seqWrite u b a v s with
    | (s1, .error e) => (s1, .error e)
    | (s1, .ok _) => seqWrites u b (a + 1) vs s1

/-! Buffers (10_state.md R29). -/

/-- Write `new` over the first entries of a buffer; the entries after it keep their values: 10_state.md R22 keeps what a
rule does not name, where 70_reset_and_hazards.md R359 (3) leaves any value. DESIGN CHOICE, log entry 16. -/
def overlay {α : Type} (new old : List α) : List α := new ++ old.drop new.length

/-- The valid bytes of a buffer, `BUF[0..LEN-1]`. -/
def ByteBuf.bytes (b : ByteBuf) : List Byte := b.cells.take b.len.toNat

/-- Write a byte sequence to the start of a buffer and set its length register. -/
def ByteBuf.write (b : ByteBuf) (m : List Byte) : ByteBuf :=
  { cells := overlay m b.cells, len := BitVec.ofNat 11 m.length }

/-- Set the length register to 0; the contents stay (DESIGN CHOICE, log entry 16). -/
def ByteBuf.clear (b : ByteBuf) : ByteBuf := { b with len := 0 }

/-- The valid entries of `DATABUF`, `DATABUF[0..DATALEN-1]`. -/
def WordBuf.words (b : WordBuf) : List Word := b.cells.take b.len.toNat

/-- Write a value list to the start of `DATABUF` and set `DATALEN`. -/
def WordBuf.write (b : WordBuf) (m : List Word) : WordBuf :=
  { cells := overlay m b.cells, len := BitVec.ofNat 11 m.length }

/-! Named updates of the state. -/

/-- `STATUS <- e`. -/
def State.setStatus (s : State) (e : Status) : State := { s with status := e }

/-- `RES <- v`. -/
def State.setRes (s : State) (v : Word) : State := { s with res := v }

/-- `PDUBUF`, `PDULEN`. -/
def State.setPdu (s : State) (b : ByteBuf) : State := { s with pdu := b }

/-- `TXBUF`, `TXLEN`. -/
def State.setTx (s : State) (b : ByteBuf) : State := { s with tx := b }

/-- `DATABUF`, `DATALEN`. -/
def State.setData (s : State) (b : WordBuf) : State := { s with data := b }

/-- `SPHASE <- p`. -/
def State.setSphase (s : State) (p : SPhase) : State := { s with sphase := p }

/-- `MPHASE <- p`. -/
def State.setMphase (s : State) (p : MPhase) : State := { s with mphase := p }

/-- `RUN <- r`. -/
def State.setRun (s : State) (r : Bool) : State := { s with run := r }

/-- The datastores. -/
def State.setStores (s : State) (d : List (Nat × Store)) : State := { s with stores := d }

/-- `MTID <- t`. -/
def State.setMtid (s : State) (t : Word) : State := { s with mtid := t }

/-- `TXID <- t`. -/
def State.setTxid (s : State) (t : Word) : State := { s with txid := t }

/-- `CRCTAB`, `CRCTAB_VALID`. -/
def State.setCrc (s : State) (tab : List Word) (valid : Bool) : State := { s with crcTab := tab, crcValid := valid }

/-- The free values of draw `n` with which a byte buffer is filled when its contents are undefined (log entry 7). -/
@[irreducible] def freeBytes (n : Nat) : List Byte := (List.range Config.bufMax).map fun i => Config.freeByte n i

/-- The free values of draw `n` with which `DATABUF` is filled when its contents are unspecified (log entry 7). -/
@[irreducible] def freeWords (n : Nat) : List Word := (List.range Config.dataMax).map fun i => Config.freeWord n i

/-- `TXBUF` contents not defined, `TXLEN` 0 (60_exceptions.md R307): the contents are free values (log entry 7). -/
def State.loseTx (s : State) : State :=
  { s with
    tx := { cells := freeBytes s.freeCtr, len := 0 }
    freeCtr := s.freeCtr + 1 }

/-- `DATABUF` contents unspecified, `DATALEN` 0 (46_master.md R276): the contents are free values (log entry 7). -/
def State.loseData (s : State) : State :=
  { s with
    data := { cells := freeWords s.freeCtr, len := 0 }
    freeCtr := s.freeCtr + 1 }

/-! The three mechanisms of failure (60_exceptions.md R303): nothing is saved and nothing vectors; execution goes on
with the controller's next command, so there is no return from an exception (R303, R308). -/

/-- `raise Local(e)` (60_exceptions.md R305): the command ends with `STATUS <- e`. -/
def State.raiseLocal (s : State) (e : Status) : State := s.setStatus e

/-- `raise ModbusException(c)` (45_request_exec.md R236, 30_encoding.md R85): taking an exception on the wire is
producing this reply PDU. -/
def exceptionReply (fc c : Byte) : List Byte := [fc ||| 0x80#8, c]

/-- `discard(e)` (60_exceptions.md R307): the received frame is dropped. -/
def State.discard (s : State) (e : Status) : State :=
  ((s.setPdu s.pdu.clear).setSphase .idle).setStatus e

end Sys2Proof.Machine
end

