-- ==== Sys2Proof/Machine/Flags.lean ====
section
/-! DEFINITION. The outcome channel. The block has no condition codes and no sticky flags (10_state.md R25): `STATUS` is
the only indicator, and every command overwrites it. -/

namespace Sys2Proof.Machine

/-- The number of a status code (60_exceptions.md R300). -/
def Status.code : Status → Byte
  | .ok => 0
  | .rxTimeout => 1
  | .wrongMessageLen => 2
  | .wrongCrc => 3
  | .wrongLrc => 4
  | .startCharNotFound => 5
  | .endCharsNotFound => 6
  | .wrongTransactionId => 7
  | .wrongProtocolId => 8
  | .wrongResponseAddress => 9
  | .wrongResponseRegAddress => 10
  | .wrongResponseQuantity => 11
  | .wrongResponseValue => 12
  | .wrongResponseAndMask => 13
  | .wrongResponseOrMask => 14
  | .zeroRegistersRequested => 15
  | .tooManyRegistersRequested => 16
  | .exceptionIllegalFunction => 17
  | .exceptionIllegalDataAddress => 18
  | .exceptionIllegalDataValue => 19
  | .exceptionSlaveDeviceFailure => 20
  | .exceptionOther => 21
  | .discardedShort => 33
  | .discardedChecksum => 34
  | .discardedFraming => 35
  | .discardedUnit => 36
  | .stopRequested => 37
  | .sizeRange => 48
  | .outOfRange => 49
  | .duplicateUnit => 50
  | .unitIdRange => 51
  | .noSuchUnit => 52
  | .busy => 62
  | .badCommand => 63

/-- The families of 60_exceptions.md R300; a command reports one outcome (R301). -/
inductive StatusFamily where
  | none
  | localError
  | remote
  | discarded
  deriving DecidableEq, Repr

/-- The family of a status code (60_exceptions.md R300, R301). -/
def Status.family : Status → StatusFamily
  | .ok => .none
  | .exceptionIllegalFunction | .exceptionIllegalDataAddress | .exceptionIllegalDataValue => .remote
  | .exceptionSlaveDeviceFailure | .exceptionOther => .remote
  | .discardedShort | .discardedChecksum | .discardedFraming | .discardedUnit => .discarded
  | .rxTimeout | .wrongMessageLen | .wrongCrc | .wrongLrc | .startCharNotFound | .endCharsNotFound => .localError
  | .wrongTransactionId | .wrongProtocolId | .wrongResponseAddress | .wrongResponseRegAddress => .localError
  | .wrongResponseQuantity | .wrongResponseValue | .wrongResponseAndMask | .wrongResponseOrMask => .localError
  | .zeroRegistersRequested | .tooManyRegistersRequested | .stopRequested => .localError
  | .sizeRange | .outOfRange | .duplicateUnit | .unitIdRange | .noSuchUnit | .busy | .badCommand => .localError

/-- The status of a failed element access (44_bank.md R216, R217). -/
def BankErr.status : BankErr → Status
  | .noSuchUnit => .noSuchUnit
  | .outOfRange => .outOfRange

/-- The remote status an exception code byte stands for (46_master.md R279). -/
def exceptionStatus (c : Byte) : Status :=
  match c.toNat with
  | 1 => .exceptionIllegalFunction
  | 2 => .exceptionIllegalDataAddress
  | 3 => .exceptionIllegalDataValue
  | 4 => .exceptionSlaveDeviceFailure
  | _ => .exceptionOther

end Sys2Proof.Machine
end

