-- ==== Sys2Proof/Machine/Bank.lean ====
section
/-! DEFINITION. Register bank family (44_bank.md): construction of datastores and element access by command. -/

namespace Sys2Proof.Machine

/-- A new datastore with the lengths of `DI`, `CO`, `IR`, `HR`; no element is written yet, so each holds its
`BANK_INIT` value (44_bank.md R210). -/
def newStore (l0 l1 l2 l3 : Nat) : Store :=
  { di := ⟨l0, []⟩, co := ⟨l1, []⟩, ir := ⟨l2, []⟩, hr := ⟨l3, []⟩ }

/-- The construction shared by both commands (44_bank.md R210): unit range, then size range, then duplicate. -/
def makeStore (l0 l1 l2 l3 : Nat) (s : State) : State :=
  if s.unit.toNat > 247 then s.raiseLocal .unitIdRange
  else if l0 > 65536 ∨ l1 > 65536 ∨ l2 > 65536 ∨ l3 > 65536 then s.raiseLocal .sizeRange
  else if (s.store s.unit).isSome then s.raiseLocal .duplicateUnit
  else (s.setStores (assocPut s.stores s.unit.toNat (newStore l0 l1 l2 l3))).setStatus .ok

/-- `DS_NEW` (44_bank.md R210). -/
def runDsNew (s : State) : State := makeStore s.len0.toNat s.len1.toNat s.len2.toNat s.len3.toNat s

/-- `DS_NEW_DEFAULT` (44_bank.md R211): all four lengths 65536, `LEN0`..`LEN3` not read. -/
def runDsNewDefault (s : State) : State := makeStore 65536 65536 65536 65536 s

/-- `BANK_RD` (44_bank.md R216). -/
def runBankRd (s : State) : State :=
  match seqRead s.unit (bankOfSel s.bank) s.addr.toNat s with
  | (s1, .ok v) => (s1.setRes v).setStatus .ok
  | (s1, .error e) => s1.raiseLocal e.status

/-- `BANK_WR` (44_bank.md R217). -/
def runBankWr (s : State) : State :=
  match seqWrite s.unit (bankOfSel s.bank) s.addr.toNat s.val s with
  | (s1, .ok _) => s1.setStatus .ok
  | (s1, .error e) => s1.raiseLocal e.status

/-- The meaning of `DS_NEW` (44_bank.md R210). -/
def execDsNew (s : State) : Host.Outcome State Fault Refusal := .next (runDsNew s)

/-- The meaning of `DS_NEW_DEFAULT` (44_bank.md R211). -/
def execDsNewDefault (s : State) : Host.Outcome State Fault Refusal := .next (runDsNewDefault s)

/-- The meaning of `BANK_RD` (44_bank.md R216). -/
def execBankRd (s : State) : Host.Outcome State Fault Refusal := .next (runBankRd s)

/-- The meaning of `BANK_WR` (44_bank.md R217). -/
def execBankWr (s : State) : Host.Outcome State Fault Refusal := .next (runBankWr s)

end Sys2Proof.Machine
end

