-- ==== Sys2Proof/Machine/Operands.lean ====
section
/-! DEFINITION. The operand forms of messages and frames: bit and word arrays in a PDU (30_encoding.md R88, R91), the
hex coding of a byte (R90), the checksum functions' data, and what a frame is taken apart into. -/

namespace Sys2Proof.Machine

/-- `ceil8(q) = (q + 7) div 8` (00_scope.md R9). -/
abbrev ceil8 (q : Nat) : Nat := (q + 7) / 8

/-- One data byte of a bit array: bit `j` is bit 0 of entry `8k + j`, 0 beyond the last entry (30_encoding.md R91). -/
def packByte (e : List Word) (k : Nat) : Byte :=
  (List.range 8).foldl
    (fun acc j => if (e.getD (8 * k + j) 0).getLsbD 0 then acc ||| (1#8 <<< j) else acc) 0#8

/-- `pack(E)` (45_request_exec.md R238): the `ceil8(q)` bytes of `q` bit elements. -/
def pack (e : List Word) : List Byte := (List.range (ceil8 e.length)).map (packByte e)

/-- `unpack(D, i) = D[i div 8][i mod 8]` (45_request_exec.md R238), as a 16-bit entry. -/
def unpackAt (d : List Byte) (i : Nat) : Word :=
  if (d.getD (i / 8) 0).getLsbD (i % 8) then 1 else 0

/-- The first `q` elements of a bit array. -/
def unpack (d : List Byte) (q : Nat) : List Word := (List.range q).map (unpackAt d)

/-- `words(E)` (45_request_exec.md R238): each register high byte first. -/
def words (e : List Word) : List Byte := e.flatMap be

/-- The registers in a word array: `u16be` of each pair of bytes (30_encoding.md R88). -/
def unwords : List Byte → List Word
  | a :: b :: t => u16be a b :: unwords t
  | _ => []

/-- `HEX`: 0..9 to '0'..'9', 10..15 to 'A'..'F' (41_hex_mbap.md R150). -/
def hexDigit (n : BitVec 4) : Byte :=
  if n.toNat < 10 then 0x30#8 + n.setWidth 8 else 0x37#8 + n.setWidth 8

/-- `digit(c)`: 0 for every character that is not one of the sixteen, lowercase included (41_hex_mbap.md R151). -/
def hexValue (c : Byte) : BitVec 4 :=
  if 0x30 ≤ c.toNat ∧ c.toNat ≤ 0x39 then (c - 0x30#8).setWidth 4
  else if 0x41 ≤ c.toNat ∧ c.toNat ≤ 0x46 then (c - 0x37#8).setWidth 4
  else 0

/-- `hexenc(B)` (41_hex_mbap.md R150): two characters a byte, high nibble first. -/
def hexenc (b : List Byte) : List Byte :=
  b.flatMap fun x => [hexDigit (x.extractLsb' 4 4), hexDigit (x.extractLsb' 0 4)]

/-- `hexdec(T)` (41_hex_mbap.md R151): `16 * digit(c0) + digit(c1)` a pair; an odd last character is ignored. -/
def hexdec : List Byte → List Byte
  | a :: b :: t => (hexValue a ++ hexValue b : BitVec 8) :: hexdec t
  | _ => []

/-- `mbap_header(t, M)` (41_hex_mbap.md R155). -/
def mbapHeader (t : Word) (m : List Byte) : List Byte :=
  be t ++ [0x00#8, 0x00#8] ++ be (BitVec.ofNat 16 m.length) ++ [m.headD 0]

/-- The part of a byte sequence from its last ':' on, if it has one (43_frame_decode.md R189). -/
def fromLastColon : List Byte → Option (List Byte)
  | [] => none
  | c :: t =>
    match fromLastColon t with
    | some r => some r
    | none => if c = 0x3A#8 then some (c :: t) else none

/-- The 16-bit field at bytes `k`, `k + 1` of a PDU or an MBAP frame (30_encoding.md R88). -/
abbrev field (p : List Byte) (k : Nat) : Word := u16be (p.getD k 0) (p.getD (k + 1) 0)

end Sys2Proof.Machine
end

