-- ==== Sys2Proof/Machine/Checksum.lean ====
section
/-! DEFINITION. Checksum family (40_checksum.md): CRC16 with its table built on first use, and LRC. -/

namespace Sys2Proof.Machine

/-- One division step of the table construction (40_checksum.md R131). -/
def crcShift (v : Word) : Word := if v.getLsbD 0 then (v >>> 1) ^^^ 0xA001#16 else v >>> 1

/-- `n` division steps. -/
def crcShifts : Nat → Word → Word
  | 0, v => v
  | n + 1, v => crcShifts n (crcShift v)

/-- `CRCTAB[i]` as the construction makes it (40_checksum.md R131). -/
def crcEntry (i : Nat) : Word := crcShifts 8 (BitVec.ofNat 16 i)

/-- The whole table (40_checksum.md R131, R132). -/
def crcTable : List Word := (List.range 256).map crcEntry

/-- One byte folded into the accumulator (40_checksum.md R134). -/
def crcUpdate (tab : List Word) (acc : Word) (b : Byte) : Word :=
  (acc >>> 8) ^^^ tab.getD (lo8 (acc ^^^ b.setWidth 16)).toNat 0

/-- `crc16(B)` computed with the table `tab` (40_checksum.md R134). -/
def crcWith (tab : List Word) (b : List Byte) : Word := b.foldl (crcUpdate tab) 0xFFFF#16

/-- `crc16(B)` (40_checksum.md R134). -/
def crc16 (b : List Byte) : Word := crcWith crcTable b

/-- Lazy build (40_checksum.md R133): every rule that evaluates `crc16` does this first. -/
def State.ensureCrc (s : State) : State := if s.crcValid then s else s.setCrc crcTable true

/-- `crc16` as the sequencer evaluates it, from the table it holds (40_checksum.md R133, R134). -/
def State.crcOf (s : State) (b : List Byte) : Word := crcWith s.crcTab b

/-- `lrc(B)` (40_checksum.md R138). -/
def lrc (b : List Byte) : Byte := 0#8 - b.foldl (· + ·) 0#8

/-- `CRC16` (40_checksum.md R135). -/
def runCrc16 (s : State) : State :=
  (s.ensureCrc.setRes (s.ensureCrc.crcOf s.pdu.bytes)).setStatus .ok

/-- `LRC` (40_checksum.md R139). -/
def runLrc (s : State) : State := (s.setRes ((lrc s.pdu.bytes).setWidth 16)).setStatus .ok

/-- The meaning of `CRC16` (40_checksum.md R135). -/
def execCrc16 (s : State) : Host.Outcome State Fault Refusal := .next (runCrc16 s)

/-- The meaning of `LRC` (40_checksum.md R139). -/
def execLrc (s : State) : Host.Outcome State Fault Refusal := .next (runLrc s)

end Sys2Proof.Machine
end

