-- ==== Sys2Proof/Machine/Control.lean ====
section
/-! DEFINITION. Run control (60_exceptions.md R316, R317) and the undefined command codes (30_encoding.md R121). -/

namespace Sys2Proof.Machine

/-- The meaning of `START` (60_exceptions.md R316). -/
def execStart (s : State) : Host.Outcome State Fault Refusal := .next ((s.setRun true).setStatus .ok)

/-- The meaning of `STOP` (60_exceptions.md R317). -/
def execStop (s : State) : Host.Outcome State Fault Refusal := .next ((s.setRun false).setStatus .ok)

/-- The meaning of an undefined command code (30_encoding.md R121): `STATUS <- BadCommand`, nothing else changes. -/
def execUndefinedCmd (_code : Byte) (s : State) : Host.Outcome State Fault Refusal :=
  .next (s.setStatus .badCommand)

end Sys2Proof.Machine
end

