-- ==== Sys2Proof/Machine/FrameDecode.lean ====
section
/-! DEFINITION. Frame decode family, request side (43_frame_decode.md): each command accepts the candidate frame in
`RXBUF` and leaves the bare message in `PDUBUF`, or discards it; the first failing check decides (R194). -/

namespace Sys2Proof.Machine

/-- The accept outcome (43_frame_decode.md R185). -/
def State.accept (s : State) (m : List Byte) : State := (s.setPdu (s.pdu.write m)).setStatus .ok

/-- `DEC_RTU` on the candidate frame `f` (43_frame_decode.md R186). -/
def decRtuFrame (f : List Byte) (s : State) : State :=
  if f.length < 3 then s.discard .discardedShort
  else if f.length < 4 then s.discard .discardedFraming
  else
    let m := f.take (f.length - 2)
    let c := u16le (f.getD (f.length - 2) 0) (f.getD (f.length - 1) 0)
    if s.ensureCrc.crcOf m ≠ c then s.ensureCrc.discard .discardedChecksum
    else s.ensureCrc.accept m

/-- `DEC_ASCII` on a frame `f` that starts at the last ':' (43_frame_decode.md R188). -/
def decAsciiFrame (f : List Byte) (s : State) : State :=
  if f.length < 3 then s.discard .discardedShort
  else if f.headD 0 ≠ 0x3A#8 then s.discard .discardedFraming
  else if f.getD (f.length - 2) 0 ≠ 0x0D#8 ∨ f.getD (f.length - 1) 0 ≠ 0x0A#8 then s.discard .discardedFraming
  else
    let b := hexdec ((f.drop 1).take (f.length - 3))
    if b.length < 3 then s.discard .discardedFraming
    else if lrc b.dropLast ≠ b.getLastD 0 then s.discard .discardedChecksum
    else s.accept b.dropLast

/-- `DEC_MBAP` on the candidate frame `f` (43_frame_decode.md R191). -/
def decMbapFrame (f : List Byte) (s : State) : State :=
  if f.length < 3 then s.discard .discardedShort
  else if f.length < 8 then s.discard .discardedFraming
  else if field f 2 ≠ 0 then s.discard .discardedFraming
  else if (field f 4).toNat ≠ f.length - 6 then s.discard .discardedFraming
  else { s with mtid := field f 0, proto := field f 2, mlen := field f 4 }.accept (f.drop 6)

/-- `DEC_RTU` (43_frame_decode.md R186). -/
def runDecRtu (s : State) : State := decRtuFrame s.rx.bytes s

/-- `DEC_ASCII` (43_frame_decode.md R188): the frame is the text from the last ':' on (R189). -/
def runDecAscii (s : State) : State := decAsciiFrame ((fromLastColon s.rx.bytes).getD s.rx.bytes) s

/-- `DEC_MBAP` (43_frame_decode.md R191). -/
def runDecMbap (s : State) : State := decMbapFrame s.rx.bytes s

/-- The meaning of `DEC_RTU` (43_frame_decode.md R186). -/
def execDecRtu (s : State) : Host.Outcome State Fault Refusal := .next (runDecRtu s)

/-- The meaning of `DEC_ASCII` (43_frame_decode.md R188). -/
def execDecAscii (s : State) : Host.Outcome State Fault Refusal := .next (runDecAscii s)

/-- The meaning of `DEC_MBAP` (43_frame_decode.md R191). -/
def execDecMbap (s : State) : Host.Outcome State Fault Refusal := .next (runDecMbap s)

end Sys2Proof.Machine
end

