-- ==== Sys2Proof/Machine/FrameEncode.lean ====
section
/-! DEFINITION. Frame encode family (42_frame_encode.md): the envelopes of the three transports around a message. -/

namespace Sys2Proof.Machine

/-- The RTU frame of a message whose CRC is `c` (30_encoding.md R81): low byte first. -/
def rtuFrame (c : Word) (m : List Byte) : List Byte := m ++ [lo8 c, hi8 c]

/-- The ASCII frame of a message (30_encoding.md R82). -/
def asciiFrame (m : List Byte) : List Byte := [0x3A#8] ++ hexenc (m ++ [lrc m]) ++ [0x0D#8, 0x0A#8]

/-- The MBAP frame of a message (30_encoding.md R83, 41_hex_mbap.md R155). -/
def mbapFrame (t : Word) (m : List Byte) : List Byte := mbapHeader t m ++ m.drop 1

/-- `ENC_RTU` (42_frame_encode.md R171). -/
def runEncRtu (s : State) : State :=
  if s.pdu.bytes.length < 2 ∨ s.pdu.bytes.length + 2 > Config.bufMax then s.raiseLocal .badCommand
  else
    (s.ensureCrc.setTx (s.tx.write (rtuFrame (s.ensureCrc.crcOf s.pdu.bytes) s.pdu.bytes))).setStatus .ok

/-- `ENC_ASCII` (42_frame_encode.md R172). -/
def runEncAscii (s : State) : State :=
  if s.pdu.bytes.length < 2 ∨ 2 * s.pdu.bytes.length + 5 > Config.bufMax then s.raiseLocal .badCommand
  else (s.setTx (s.tx.write (asciiFrame s.pdu.bytes))).setStatus .ok

/-- `ENC_MBAP` (42_frame_encode.md R173). -/
def runEncMbap (s : State) : State :=
  if s.pdu.bytes.length < 2 ∨ s.pdu.bytes.length + 6 > Config.bufMax then s.raiseLocal .badCommand
  else (s.setTx (s.tx.write (mbapFrame s.mtid s.pdu.bytes))).setStatus .ok

/-- The meaning of `ENC_RTU` (42_frame_encode.md R171). -/
def execEncRtu (s : State) : Host.Outcome State Fault Refusal := .next (runEncRtu s)

/-- The meaning of `ENC_ASCII` (42_frame_encode.md R172). -/
def execEncAscii (s : State) : Host.Outcome State Fault Refusal := .next (runEncAscii s)

/-- The meaning of `ENC_MBAP` (42_frame_encode.md R173). -/
def execEncMbap (s : State) : Host.Outcome State Fault Refusal := .next (runEncMbap s)

end Sys2Proof.Machine
end

