-- ==== Sys2Proof/Machine/Hex.lean ====
section
/-! DEFINITION. Codec primitives (41_hex_mbap.md): ASCII hex and the MBAP header. -/

namespace Sys2Proof.Machine

/-- `HEXENC` (41_hex_mbap.md R152). -/
def runHexenc (s : State) : State :=
  if 2 * s.pdu.bytes.length > Config.bufMax then s.raiseLocal .badCommand
  else (s.setTx (s.tx.write (hexenc s.pdu.bytes))).setStatus .ok

/-- `HEXDEC` (41_hex_mbap.md R153). -/
def runHexdec (s : State) : State := (s.setPdu (s.pdu.write (hexdec s.rx.bytes))).setStatus .ok

/-- `MBAP_BUILD` (41_hex_mbap.md R156). -/
def runMbapBuild (s : State) : State :=
  if s.pdu.bytes.length < 1 then s.raiseLocal .badCommand
  else (s.setTx (s.tx.write (mbapHeader s.mtid s.pdu.bytes))).setStatus .ok

/-- `MBAP_PARSE` (41_hex_mbap.md R157): extracts and does not judge. -/
def runMbapParse (s : State) : State :=
  if s.rx.bytes.length < 7 then s.raiseLocal .wrongMessageLen
  else
    { s with
      mtid := field s.rx.bytes 0
      proto := field s.rx.bytes 2
      mlen := field s.rx.bytes 4
      unit := s.rx.bytes.getD 6 0
      status := .ok }

/-- The meaning of `HEXENC` (41_hex_mbap.md R152). -/
def execHexenc (s : State) : Host.Outcome State Fault Refusal := .next (runHexenc s)

/-- The meaning of `HEXDEC` (41_hex_mbap.md R153). -/
def execHexdec (s : State) : Host.Outcome State Fault Refusal := .next (runHexdec s)

/-- The meaning of `MBAP_BUILD` (41_hex_mbap.md R156). -/
def execMbapBuild (s : State) : Host.Outcome State Fault Refusal := .next (runMbapBuild s)

/-- The meaning of `MBAP_PARSE` (41_hex_mbap.md R157). -/
def execMbapParse (s : State) : Host.Outcome State Fault Refusal := .next (runMbapParse s)

end Sys2Proof.Machine
end

