-- ==== Sys2Proof/Machine/Master.lean ====
section
/-! DEFINITION. Master family (46_master.md): the transaction counter, building a request, judging a response. -/

namespace Sys2Proof.Machine

/-- `NEXT_TXID` (46_master.md R271): increment, then use. -/
def runNextTxid (s : State) : State :=
  (((s.setTxid (s.txid + 1)).setMtid (s.txid + 1)).setRes (s.txid + 1)).setStatus .ok

/-- `chk(q, max)` (46_master.md R273). -/
def checkQty (q max : Nat) : Except Status Unit :=
  if q = 0 then .error .zeroRegistersRequested
  else if q > max then .error .tooManyRegistersRequested
  else .ok ()

/-- The coil value on the wire for a `VAL` (46_master.md R273): bit 0 is the coil state. -/
def coilValue (v : Word) : Word := if v.getLsbD 0 then 0xFF00#16 else 0x0000#16

/-- The request of one of the ten functions (46_master.md R273), or the quantity error its row gives. The request PDU
is the instruction's encoding, so the master builds the layouts the slave parses (30_encoding.md R109). -/
def buildRequest (s : State) : Except Status Instr :=
  let n := s.data.len.toNat
  let d := s.data.words
  match s.fc.toNat with
  | 0x01 => (checkQty s.qty.toNat 2000).map fun _ => .rdCoils s.addr s.qty
  | 0x02 => (checkQty s.qty.toNat 2000).map fun _ => .rdDiscrete s.addr s.qty
  | 0x03 => (checkQty s.qty.toNat 125).map fun _ => .rdHolding s.addr s.qty
  | 0x04 => (checkQty s.qty.toNat 125).map fun _ => .rdInput s.addr s.qty
  | 0x05 => .ok (.wrCoil s.addr (coilValue s.val))
  | 0x06 => .ok (.wrReg s.addr s.val)
  | 0x0F => (checkQty n 1968).map fun _ =>
      .wrCoils s.addr (BitVec.ofNat 16 n) (BitVec.ofNat 8 (ceil8 n)) (pack d)
  | 0x10 => (checkQty n 123).map fun _ => .wrRegs s.addr (BitVec.ofNat 16 n) (BitVec.ofNat 8 (2 * n)) (words d)
  | 0x16 => .ok (.maskWr s.addr s.val s.val2)
  | 0x17 =>
    match checkQty s.qty.toNat 125 with
    | .error e => .error e
    | .ok _ => (checkQty n 121).map fun _ =>
        .rwRegs s.addr s.qty s.waddr (BitVec.ofNat 16 n) (BitVec.ofNat 8 (2 * n)) (words d)
  | _ => .error .badCommand

/-- The quantity registers a request writes (46_master.md R273, last column; R275). -/
def State.setQuantities (s : State) : State :=
  match s.fc.toNat with
  | 0x0F | 0x10 => { s with qty := s.data.len.setWidth 16 }
  | 0x17 => { s with wqty := s.data.len.setWidth 16 }
  | _ => s

/-- `REQ` (46_master.md R272). A quantity error leaves `PDULEN` and `TXLEN` 0, as 60_exceptions.md R305 and 46_master.md
R292 (a) say of `REQ`; R272 itself names `PDULEN` alone. DEDUCED, log entry 15. -/
def runReq (s : State) : State :=
  if s.mphase = .sending then s.raiseLocal .busy
  else if !isFunction s.fc then s.raiseLocal .badCommand
  else
    let s0 := s.setMphase .building
    match buildRequest s0 with
    | .error e => (((s0.setPdu s0.pdu.clear).setTx s0.tx.clear).setMphase .errored).raiseLocal e
    | .ok i => ((s0.setQuantities.setPdu (s0.pdu.write (s0.unit :: encode i))).setMphase .sending).setStatus .ok

/-- A request framed for one transport (46_master.md R285): a refusal changes nothing, a quantity error leaves no
frame, otherwise `frame` makes the frame. -/
def masterRequest (frame : State → State) (s : State) : State :=
  let s1 := runReq s
  if s1.status = .busy ∨ s1.status = .badCommand then s1
  else if s1.status ≠ .ok then s1.setTx s1.tx.clear
  else frame s1

/-- `MREQ_RTU` (46_master.md R285). -/
def runMreqRtu : State → State := masterRequest runEncRtu

/-- `MREQ_ASCII` (46_master.md R286). -/
def runMreqAscii : State → State := masterRequest runEncAscii

/-- `MREQ_MBAP` (46_master.md R287): the counter advances only here, after the pre-flight check. -/
def runMreqMbap : State → State := masterRequest fun s => runEncMbap (runNextTxid s)

/-- The functions whose reply carries data: 0x01 to 0x04 and 0x17 (46_master.md R276). -/
def isReading (fc : Byte) : Bool := [0x01, 0x02, 0x03, 0x04, 0x17].contains fc.toNat

/-- What checking a reply against the request finds (46_master.md R279): a write echoed as asked; the data of a
reading function; an error; `FC` no function any more, which closes the request; data that does not fit `DATABUF`
(30_encoding.md R122; log entry 11). -/
inductive Verdict where
  | echoed
  | data (ws : List Word)
  | failed (e : Status)
  | closed
  | tooLong
  deriving DecidableEq, Repr

/-- The reply of a reading function (46_master.md R279): `need` is the byte count the quantity requires. -/
def readVerdict (qty need : Nat) (values : List Byte → List Word) (p : List Byte) : Verdict :=
  let c := (p.getD 1 0).toNat
  if c ≠ need ∨ p.length < 2 + c then .failed .wrongMessageLen
  else if qty > Config.dataMax then .tooLong
  else .data (values (p.drop 2))

/-- The echoed fields of a write from byte `k` on: the error of the first that differs (46_master.md R279). -/
def echoFields : Nat → List (Word × Status) → List Byte → Verdict
  | _, [], _ => .echoed
  | k, (v, e) :: t, p => if field p k ≠ v then .failed e else echoFields (k + 2) t p

/-- The echo of a write (46_master.md R279): the length, the address, then each further field with its error. -/
def echoVerdict (addr : Word) (fields : List (Word × Status)) (p : List Byte) : Verdict :=
  if p.length < 3 + 2 * fields.length then .failed .wrongMessageLen
  else if field p 1 ≠ addr then .failed .wrongResponseRegAddress
  else echoFields 3 fields p

/-- Checking the reply PDU `p` against the request context (46_master.md R279). -/
def verdict (s : State) (p : List Byte) : Verdict :=
  let q := s.qty.toNat
  if (p.getD 0 0).getLsbD 7 then .failed (exceptionStatus (p.getD 1 0))
  else
    match s.fc.toNat with
    | 0x01 | 0x02 => readVerdict q (ceil8 q) (fun d => unpack d q) p
    | 0x03 | 0x04 | 0x17 => readVerdict q (2 * q) (fun d => (unwords d).take q) p
    | 0x05 => echoVerdict s.addr [(coilValue s.val, .wrongResponseValue)] p
    | 0x06 => echoVerdict s.addr [(s.val, .wrongResponseValue)] p
    | 0x0F | 0x10 => echoVerdict s.addr [(s.qty, .wrongResponseQuantity)] p
    | 0x16 => echoVerdict s.addr [(s.val, .wrongResponseAndMask), (s.val2, .wrongResponseOrMask)] p
    | _ => .closed

/-- A local error or an exception while judging (46_master.md R276): no data is returned. -/
def State.rspFail (s : State) (e : Status) : State :=
  ((if isReading s.fc then s.loseData else s).setMphase .errored).raiseLocal e

/-- The outcome of the check on a state whose envelope was accepted; `s0` is the state the command started in
(46_master.md R276, R279). -/
def conclude (s0 s : State) : Verdict → State
  | .echoed => (s.setMphase .done).setStatus .ok
  | .data ws => ((s.setData (s.data.write ws)).setMphase .done).setStatus .ok
  | .failed e => s.rspFail e
  | .closed => (s.loseData.setMphase .errored).raiseLocal .badCommand
  | .tooLong => s0.raiseLocal .badCommand

/-- What the envelope check of a transport finds in a response: the message, or the local error. -/
abbrev Envelope := Except Status (List Byte)

/-- The RTU envelope (46_master.md R288, after the timeout check). -/
def envelopeRtu (s : State) (f : List Byte) : Envelope :=
  if f.length < 5 then .error .wrongMessageLen
  else if s.crcOf (f.take (f.length - 2)) ≠ u16le (f.getD (f.length - 2) 0) (f.getD (f.length - 1) 0) then
    .error .wrongCrc
  else if f.headD 0 ≠ s.unit then .error .wrongResponseAddress
  else .ok (f.take (f.length - 2))

/-- The ASCII envelope (46_master.md R289, after the timeout check): no search for the last ':'. -/
def envelopeAscii (s : State) (f : List Byte) : Envelope :=
  let b := hexdec ((f.drop 1).take (f.length - 3))
  if f.length < 11 then .error .wrongMessageLen
  else if f.headD 0 ≠ 0x3A#8 then .error .startCharNotFound
  else if f.getD (f.length - 2) 0 ≠ 0x0D#8 ∨ f.getD (f.length - 1) 0 ≠ 0x0A#8 then .error .endCharsNotFound
  else if lrc b.dropLast ≠ b.getLastD 0 then .error .wrongLrc
  else if b.headD 0 ≠ s.unit then .error .wrongResponseAddress
  else .ok b.dropLast

/-- The MBAP envelope (46_master.md R290, after the timeout check). -/
def envelopeMbap (s : State) (f : List Byte) : Envelope :=
  if f.length < 9 then .error .wrongMessageLen
  else if field f 0 ≠ s.mtid then .error .wrongTransactionId
  else if field f 2 ≠ 0 then .error .wrongProtocolId
  else if (field f 4).toNat ≠ f.length - 6 then .error .wrongMessageLen
  else if f.getD 6 0 ≠ s.unit then .error .wrongResponseAddress
  else .ok (f.drop 6)

/-- Judging a response (46_master.md R270, R276): single flight, the timeout, the envelope, the check against the
request. `prep` is what evaluating the envelope does to the state (the CRC table's first build). -/
def judge (prep : State → State) (env : State → List Byte → Envelope) (s : State) : State :=
  if s.mphase ≠ .sending then s.raiseLocal .badCommand
  else
    let f := s.rx.bytes
    let s0 := s.setMphase .validating
    if f.length = 0 then (s0.setPdu s0.pdu.clear).rspFail .rxTimeout
    else
      let s1 := prep s0
      match env s1 f with
      | .error e => (s1.setPdu s1.pdu.clear).rspFail e
      | .ok m => conclude s (s1.setPdu (s1.pdu.write m)) (verdict s1 m.tail)

/-- `RSP_RTU` (46_master.md R288): the CRC is evaluated only on a frame of 5 bytes or more (40_checksum.md R133). -/
def runRspRtu : State → State :=
  judge (fun s => if s.rx.bytes.length < 5 then s else s.ensureCrc) envelopeRtu

/-- `RSP_ASCII` (46_master.md R289). -/
def runRspAscii : State → State := judge id envelopeAscii

/-- `RSP_MBAP` (46_master.md R290). -/
def runRspMbap : State → State := judge id envelopeMbap

/-- The meaning of `NEXT_TXID` (46_master.md R271). -/
def execNextTxid (s : State) : Host.Outcome State Fault Refusal := .next (runNextTxid s)

/-- The meaning of `REQ` (46_master.md R272). -/
def execReq (s : State) : Host.Outcome State Fault Refusal := .next (runReq s)

/-- The meaning of `MREQ_RTU` (46_master.md R285). -/
def execMreqRtu (s : State) : Host.Outcome State Fault Refusal := .next (runMreqRtu s)

/-- The meaning of `MREQ_ASCII` (46_master.md R286). -/
def execMreqAscii (s : State) : Host.Outcome State Fault Refusal := .next (runMreqAscii s)

/-- The meaning of `MREQ_MBAP` (46_master.md R287). -/
def execMreqMbap (s : State) : Host.Outcome State Fault Refusal := .next (runMreqMbap s)

/-- The meaning of `RSP_RTU` (46_master.md R288). -/
def execRspRtu (s : State) : Host.Outcome State Fault Refusal := .next (runRspRtu s)

/-- The meaning of `RSP_ASCII` (46_master.md R289). -/
def execRspAscii (s : State) : Host.Outcome State Fault Refusal := .next (runRspAscii s)

/-- The meaning of `RSP_MBAP` (46_master.md R290). -/
def execRspMbap (s : State) : Host.Outcome State Fault Refusal := .next (runRspMbap s)

end Sys2Proof.Machine
end

