-- ==== Sys2Proof/Machine/Request.lean ====
section
/-! DEFINITION. Request execution family (45_request_exec.md): the address filter, the five steps, the ten functions, the
unrecognized function codes, and `EXEC`. A request runs against the unit id in `PDUBUF[0]`. -/

namespace Sys2Proof.Machine

/-- What a function makes of its request: the reply PDU, or the exception code it raises (45_request_exec.md R234). -/
abbrev Answer := Except Byte (List Byte)

/-- Reading `q` elements (45_request_exec.md R240 to R243): steps 1 to 5 of R234 with the reply `[fc, count] ++ data`. -/
def readFunction (fc : Byte) (b : BankName) (qmax : Nat) (count : Nat → Nat) (data : List Word → List Byte)
    (start qty : Word) (u : Byte) (d : Store) (s : State) : State × Answer :=
  if d.len b = 0 then (s, .error 1)
  else if qty.toNat < 1 ∨ qty.toNat > qmax then (s, .error 3)
  else if start.toNat + qty.toNat > d.len b then (s, .error 2)
  else
    match seqReads u b start.toNat qty.toNat s with
    | (s1, .ok e) => (s1, .ok ([fc, BitVec.ofNat 8 (count qty.toNat)] ++ data e))
    | (s1, .error _) => (s1, .error 4)

/-- Writing one element (45_request_exec.md R247, R248): `valid` is step 2's check of the value, the reply repeats the
request. -/
def writeOne (b : BankName) (valid : Bool) (addr value : Word) (echo : List Byte) (u : Byte) (d : Store)
    (s : State) : State × Answer :=
  if d.len b = 0 then (s, .error 1)
  else if !valid then (s, .error 3)
  else if addr.toNat + 1 > d.len b then (s, .error 2)
  else
    match seqWrite u b addr.toNat value s with
    | (s1, .ok _) => (s1, .ok echo)
    | (s1, .error _) => (s1, .error 4)

/-- Writing `q` elements (45_request_exec.md R249, R250): `need` is the byte count the quantity requires (R235 (b)),
`values` what the data bytes say; the reply repeats function code, start and quantity. -/
def writeMany (fc : Byte) (b : BankName) (qmax : Nat) (need : Nat → Nat) (values : List Byte → Nat → List Word)
    (start qty : Word) (count : Byte) (bytes : List Byte) (u : Byte) (d : Store) (s : State) : State × Answer :=
  if d.len b = 0 then (s, .error 1)
  else if qty.toNat < 1 ∨ qty.toNat > qmax then (s, .error 3)
  else if count.toNat ≠ need qty.toNat ∨ bytes.length < count.toNat then (s, .error 3)
  else if start.toNat + qty.toNat > d.len b then (s, .error 2)
  else
    match seqWrites u b start.toNat (values bytes qty.toNat) s with
    | (s1, .ok _) => (s1, .ok (fc :: (be start ++ be qty)))
    | (s1, .error _) => (s1, .error 4)

/-- The mask write (45_request_exec.md R251): a read access, then a write access to the same element. -/
def maskWrite (addr andMask orMask : Word) (echo : List Byte) (u : Byte) (d : Store) (s : State) : State × Answer :=
  if d.len .hr = 0 then (s, .error 1)
  else if addr.toNat + 1 > d.len .hr then (s, .error 2)
  else
    match seqRead u .hr addr.toNat s with
    | (s1, .error _) => (s1, .error 4)
    | (s1, .ok cur) =>
      match seqWrite u .hr addr.toNat ((cur &&& andMask) ||| (orMask &&& ~~~andMask)) s1 with
      | (s2, .ok _) => (s2, .ok echo)
      | (s2, .error _) => (s2, .error 4)

/-- Read/write multiple (45_request_exec.md R252): both quantities, the byte count, both ranges, then the write, then
the read. -/
def readWrite (rstart rqty wstart wqty : Word) (count : Byte) (bytes : List Byte) (u : Byte) (d : Store)
    (s : State) : State × Answer :=
  if d.len .hr = 0 then (s, .error 1)
  else if rqty.toNat < 1 ∨ rqty.toNat > 125 ∨ wqty.toNat < 1 ∨ wqty.toNat > 121 then (s, .error 3)
  else if count.toNat ≠ 2 * wqty.toNat ∨ bytes.length < count.toNat then (s, .error 3)
  else if rstart.toNat + rqty.toNat > d.len .hr ∨ wstart.toNat + wqty.toNat > d.len .hr then (s, .error 2)
  else
    match seqWrites u .hr wstart.toNat ((unwords bytes).take wqty.toNat) s with
    | (s1, .error _) => (s1, .error 4)
    | (s1, .ok _) =>
      match seqReads u .hr rstart.toNat rqty.toNat s1 with
      | (s2, .ok e) => (s2, .ok ([0x17#8, BitVec.ofNat 8 (2 * rqty.toNat)] ++ words e))
      | (s2, .error _) => (s2, .error 4)

/-- The reply PDU of an answer: the function's own, or the exception reply (45_request_exec.md R236). -/
def replyPdu (fc : Byte) : Answer → List Byte
  | .ok r => r
  | .error c => exceptionReply fc c

/-- Leave the reply message in `PDUBUF` (45_request_exec.md R230). -/
def State.reply (s : State) (u : Byte) (r : List Byte) : State :=
  ((s.setPdu (s.pdu.write (u :: r))).setStatus .ok).setSphase .idle

/-- Serve one request (45_request_exec.md R230): the address filter (R231), the function, the reply. -/
def serve (fc : Byte) (f : Byte → Store → State → State × Answer) (s : State) : State :=
  let u := s.pdu.cells.headD 0
  let s0 := s.setSphase .dispatching
  match s0.store u with
  | none => s0.discard .discardedUnit
  | some d => (f u d s0).1.reply u (replyPdu fc (f u d s0).2)

/-- `RD_COILS` (45_request_exec.md R240). -/
def runRdCoils (start qty : Word) : State → State := serve 0x01 (readFunction 0x01 .co 2000 ceil8 pack start qty)

/-- `RD_DISCRETE` (45_request_exec.md R241). -/
def runRdDiscrete (start qty : Word) : State → State := serve 0x02 (readFunction 0x02 .di 2000 ceil8 pack start qty)

/-- `RD_HOLDING` (45_request_exec.md R242). -/
def runRdHolding (start qty : Word) : State → State :=
  serve 0x03 (readFunction 0x03 .hr 125 (2 * ·) words start qty)

/-- `RD_INPUT` (45_request_exec.md R243). -/
def runRdInput (start qty : Word) : State → State := serve 0x04 (readFunction 0x04 .ir 125 (2 * ·) words start qty)

/-- `WR_COIL` (45_request_exec.md R247): the value is 0x0000 or 0xFF00. -/
def runWrCoil (addr value : Word) : State → State :=
  serve 0x05 (writeOne .co (value = 0x0000#16 || value = 0xFF00#16) addr (if value = 0xFF00#16 then 1 else 0)
    (encode (.wrCoil addr value)))

/-- `WR_REG` (45_request_exec.md R248): every value is legal. -/
def runWrReg (addr value : Word) : State → State :=
  serve 0x06 (writeOne .hr true addr value (encode (.wrReg addr value)))

/-- `WR_COILS` (45_request_exec.md R249). -/
def runWrCoils (start qty : Word) (count : Byte) (bytes : List Byte) : State → State :=
  serve 0x0F (writeMany 0x0F .co 1968 ceil8 unpack start qty count bytes)

/-- `WR_REGS` (45_request_exec.md R250). -/
def runWrRegs (start qty : Word) (count : Byte) (bytes : List Byte) : State → State :=
  serve 0x10 (writeMany 0x10 .hr 123 (2 * ·) (fun d q => (unwords d).take q) start qty count bytes)

/-- `MASK_WR` (45_request_exec.md R251). -/
def runMaskWr (addr andMask orMask : Word) : State → State :=
  serve 0x16 (maskWrite addr andMask orMask (encode (.maskWr addr andMask orMask)))

/-- `RW_REGS` (45_request_exec.md R252). -/
def runRwRegs (rstart rqty wstart wqty : Word) (count : Byte) (bytes : List Byte) : State → State :=
  serve 0x17 (readWrite rstart rqty wstart wqty count bytes)

/-- An unrecognized function code (45_request_exec.md R253): exception 1, no bank access. -/
def runUnrecognized (fc : Byte) : State → State := serve fc fun _ _ s => (s, .error 1)

/-- Dispatch on the function code of the decoded request (45_request_exec.md R233). A command is no request. -/
def runRequest (i : Instr) (s : State) : State :=
  match i with
  | .rdCoils a q => runRdCoils a q s
  | .rdDiscrete a q => runRdDiscrete a q s
  | .rdHolding a q => runRdHolding a q s
  | .rdInput a q => runRdInput a q s
  | .wrCoil a v => runWrCoil a v s
  | .wrReg a v => runWrReg a v s
  | .wrCoils a q c d => runWrCoils a q c d s
  | .wrRegs a q c d => runWrRegs a q c d s
  | .maskWr a m o => runMaskWr a m o s
  | .rwRegs ra rq wa wq c d => runRwRegs ra rq wa wq c d s
  | .unrecognized fc => runUnrecognized fc s
  | .crc16 | .lrc | .hexenc | .hexdec | .mbapBuild | .mbapParse => s
  | .encRtu | .encAscii | .encMbap | .decRtu | .decAscii | .decMbap => s
  | .dsNew | .dsNewDefault | .bankRd | .bankWr | .execReq => s
  | .slaveRtu | .slaveAscii | .slaveMbap | .nextTxid | .req => s
  | .mreqRtu | .mreqAscii | .mreqMbap | .rspRtu | .rspAscii | .rspMbap => s
  | .start | .stop | .undefinedCmd _ => s

/-- `EXEC` (45_request_exec.md R230). A message without a function code is discarded; then the address filter (R231)
comes before the length of the PDU is judged (60_exceptions.md R309, lines 5 to 8). -/
def runExec (s : State) : State :=
  let s0 := s.setSphase .dispatching
  match s.pdu.bytes with
  | u :: p :: ps =>
    match s0.store u with
    | none => s0.discard .discardedUnit
    | some _ =>
      match decodePdu (p :: ps) with
      | .error _ => s0.discard .discardedFraming
      | .ok i => runRequest i s
  | _ => s0.discard .discardedFraming

/-- The meaning of `RD_COILS` (45_request_exec.md R240). -/
def execRdCoils (start qty : Word) (s : State) : Host.Outcome State Fault Refusal := .next (runRdCoils start qty s)

/-- The meaning of `RD_DISCRETE` (45_request_exec.md R241). -/
def execRdDiscrete (start qty : Word) (s : State) : Host.Outcome State Fault Refusal :=
  .next (runRdDiscrete start qty s)

/-- The meaning of `RD_HOLDING` (45_request_exec.md R242). -/
def execRdHolding (start qty : Word) (s : State) : Host.Outcome State Fault Refusal :=
  .next (runRdHolding start qty s)

/-- The meaning of `RD_INPUT` (45_request_exec.md R243). -/
def execRdInput (start qty : Word) (s : State) : Host.Outcome State Fault Refusal := .next (runRdInput start qty s)

/-- The meaning of `WR_COIL` (45_request_exec.md R247). -/
def execWrCoil (addr value : Word) (s : State) : Host.Outcome State Fault Refusal := .next (runWrCoil addr value s)

/-- The meaning of `WR_REG` (45_request_exec.md R248). -/
def execWrReg (addr value : Word) (s : State) : Host.Outcome State Fault Refusal := .next (runWrReg addr value s)

/-- The meaning of `WR_COILS` (45_request_exec.md R249). -/
def execWrCoils (start qty : Word) (count : Byte) (bytes : List Byte) (s : State) :
    Host.Outcome State Fault Refusal := .next (runWrCoils start qty count bytes s)

/-- The meaning of `WR_REGS` (45_request_exec.md R250). -/
def execWrRegs (start qty : Word) (count : Byte) (bytes : List Byte) (s : State) :
    Host.Outcome State Fault Refusal := .next (runWrRegs start qty count bytes s)

/-- The meaning of `MASK_WR` (45_request_exec.md R251). -/
def execMaskWr (addr andMask orMask : Word) (s : State) : Host.Outcome State Fault Refusal :=
  .next (runMaskWr addr andMask orMask s)

/-- The meaning of `RW_REGS` (45_request_exec.md R252). -/
def execRwRegs (rstart rqty wstart wqty : Word) (count : Byte) (bytes : List Byte) (s : State) :
    Host.Outcome State Fault Refusal := .next (runRwRegs rstart rqty wstart wqty count bytes s)

/-- The meaning of an unrecognized function code (45_request_exec.md R253). -/
def execUnrecognized (fc : Byte) (s : State) : Host.Outcome State Fault Refusal := .next (runUnrecognized fc s)

/-- The meaning of `EXEC` (45_request_exec.md R230). -/
def execExecReq (s : State) : Host.Outcome State Fault Refusal := .next (runExec s)

end Sys2Proof.Machine
end

