-- ==== Sys2Proof/Machine/Slave.lean ====
section
/-! DEFINITION. The slave cycle (45_request_exec.md R254 to R256): decode, execute, encode for one transport. -/

namespace Sys2Proof.Machine

/-- A discard inside a slave cycle (60_exceptions.md R307): no reply bytes, the phase back to `Idle`, the status stays
the discard's. -/
def State.noReply (s : State) : State := s.loseTx.setSphase .idle

/-- One slave cycle with the transport's decoder and encoder (45_request_exec.md R254). `RUN` is read once, first
(60_exceptions.md R315). -/
def slaveCycle (dec enc : State → State) (s : State) : State :=
  if s.run = false then (s.setTx s.tx.clear).setStatus .stopRequested
  else
    let s1 := dec (s.setSphase .decoding)
    if s1.status ≠ .ok then s1.noReply
    else
      let s2 := runExec s1
      if s2.status ≠ .ok then s2.noReply
      else ((enc (s2.setSphase .replying)).setSphase .idle).setStatus .ok

/-- `SLAVE_RTU` (45_request_exec.md R254). -/
def runSlaveRtu : State → State := slaveCycle runDecRtu runEncRtu

/-- `SLAVE_ASCII` (45_request_exec.md R255). -/
def runSlaveAscii : State → State := slaveCycle runDecAscii runEncAscii

/-- `SLAVE_MBAP` (45_request_exec.md R256). -/
def runSlaveMbap : State → State := slaveCycle runDecMbap runEncMbap

/-- The meaning of `SLAVE_RTU` (45_request_exec.md R254). -/
def execSlaveRtu (s : State) : Host.Outcome State Fault Refusal := .next (runSlaveRtu s)

/-- The meaning of `SLAVE_ASCII` (45_request_exec.md R255). -/
def execSlaveAscii (s : State) : Host.Outcome State Fault Refusal := .next (runSlaveAscii s)

/-- The meaning of `SLAVE_MBAP` (45_request_exec.md R256). -/
def execSlaveMbap (s : State) : Host.Outcome State Fault Refusal := .next (runSlaveMbap s)

end Sys2Proof.Machine
end

