-- ==== Sys2Proof/Machine/Dispatch.lean ====
section
/-! DEFINITION. One arm per instruction: a request PDU (45_request_exec.md R233) or a command (30_encoding.md R120). -/

namespace Sys2Proof.Machine

/-- What an instruction does to the state. -/
def exec (i : Instr) (s : State) : Host.Outcome State Fault Refusal :=
  match i with
  | .rdCoils start qty => Sys2Proof.Machine.execRdCoils start qty s
  | .rdDiscrete start qty => Sys2Proof.Machine.execRdDiscrete start qty s
  | .rdHolding start qty => Sys2Proof.Machine.execRdHolding start qty s
  | .rdInput start qty => Sys2Proof.Machine.execRdInput start qty s
  | .wrCoil addr value => Sys2Proof.Machine.execWrCoil addr value s
  | .wrReg addr value => Sys2Proof.Machine.execWrReg addr value s
  | .wrCoils start qty count bytes => Sys2Proof.Machine.execWrCoils start qty count bytes s
  | .wrRegs start qty count bytes => Sys2Proof.Machine.execWrRegs start qty count bytes s
  | .maskWr addr andMask orMask => Sys2Proof.Machine.execMaskWr addr andMask orMask s
  | .rwRegs rstart rqty wstart wqty count bytes => Sys2Proof.Machine.execRwRegs rstart rqty wstart wqty count bytes s
  | .unrecognized fc => Sys2Proof.Machine.execUnrecognized fc s
  | .crc16 => Sys2Proof.Machine.execCrc16 s
  | .lrc => Sys2Proof.Machine.execLrc s
  | .hexenc => Sys2Proof.Machine.execHexenc s
  | .hexdec => Sys2Proof.Machine.execHexdec s
  | .mbapBuild => Sys2Proof.Machine.execMbapBuild s
  | .mbapParse => Sys2Proof.Machine.execMbapParse s
  | .encRtu => Sys2Proof.Machine.execEncRtu s
  | .encAscii => Sys2Proof.Machine.execEncAscii s
  | .encMbap => Sys2Proof.Machine.execEncMbap s
  | .decRtu => Sys2Proof.Machine.execDecRtu s
  | .decAscii => Sys2Proof.Machine.execDecAscii s
  | .decMbap => Sys2Proof.Machine.execDecMbap s
  | .dsNew => Sys2Proof.Machine.execDsNew s
  | .dsNewDefault => Sys2Proof.Machine.execDsNewDefault s
  | .bankRd => Sys2Proof.Machine.execBankRd s
  | .bankWr => Sys2Proof.Machine.execBankWr s
  | .execReq => Sys2Proof.Machine.execExecReq s
  | .slaveRtu => Sys2Proof.Machine.execSlaveRtu s
  | .slaveAscii => Sys2Proof.Machine.execSlaveAscii s
  | .slaveMbap => Sys2Proof.Machine.execSlaveMbap s
  | .nextTxid => Sys2Proof.Machine.execNextTxid s
  | .req => Sys2Proof.Machine.execReq s
  | .mreqRtu => Sys2Proof.Machine.execMreqRtu s
  | .mreqAscii => Sys2Proof.Machine.execMreqAscii s
  | .mreqMbap => Sys2Proof.Machine.execMreqMbap s
  | .rspRtu => Sys2Proof.Machine.execRspRtu s
  | .rspAscii => Sys2Proof.Machine.execRspAscii s
  | .rspMbap => Sys2Proof.Machine.execRspMbap s
  | .start => Sys2Proof.Machine.execStart s
  | .stop => Sys2Proof.Machine.execStop s
  | .undefinedCmd code => Sys2Proof.Machine.execUndefinedCmd code s

end Sys2Proof.Machine
end

