-- ==== Sys2Proof/Machine/Port.lean ====
section
/-! DEFINITION. The block's outside: the controller's port and buffer accesses, the stop signal, reset, and what the
machine fetches as its next instruction. `step` calls these. -/

namespace Sys2Proof.Machine

/-- What a read of a port register returns, zero-extended (10_state.md R21); a read of `CMD` returns 0
(60_exceptions.md R321). -/
def readPort (s : State) : PortReg → BitVec 32
  | .cmd => 0
  | .status => s.status.code.setWidth 32
  | .res => s.res.setWidth 32
  | .fc => s.fc.setWidth 32
  | .unit => s.unit.setWidth 32
  | .bank => s.bank.setWidth 32
  | .addr => s.addr.setWidth 32
  | .qty => s.qty.setWidth 32
  | .val => s.val.setWidth 32
  | .val2 => s.val2.setWidth 32
  | .waddr => s.waddr.setWidth 32
  | .wqty => s.wqty.setWidth 32
  | .mtid => s.mtid.setWidth 32
  | .proto => s.proto.setWidth 32
  | .mlen => s.mlen.setWidth 32
  | .len0 => s.len0
  | .len1 => s.len1
  | .len2 => s.len2
  | .len3 => s.len3
  | .rxLen => s.rx.len.setWidth 32
  | .txLen => s.tx.len.setWidth 32
  | .pduLen => s.pdu.len.setWidth 32
  | .dataLen => s.data.len.setWidth 32

/-- A controller's write to a port register (10_state.md R21): a write to a read-only register is ignored
(60_exceptions.md R321), a length above its buffer's capacity is refused (30_encoding.md R122). A register takes the
low bits of the value (log entry 9). A write to `CMD` is a command start and is not made here. -/
def writePort (s : State) (r : PortReg) (v : BitVec 32) : State :=
  match r with
  | .cmd | .status | .res | .proto | .mlen | .txLen => s
  | .fc => { s with fc := v.setWidth 8 }
  | .unit => { s with unit := v.setWidth 8 }
  | .bank => { s with bank := v.setWidth 2 }
  | .addr => { s with addr := v.setWidth 16 }
  | .qty => { s with qty := v.setWidth 16 }
  | .val => { s with val := v.setWidth 16 }
  | .val2 => { s with val2 := v.setWidth 16 }
  | .waddr => { s with waddr := v.setWidth 16 }
  | .wqty => { s with wqty := v.setWidth 16 }
  | .mtid => { s with mtid := v.setWidth 16 }
  | .len0 => { s with len0 := v }
  | .len1 => { s with len1 := v }
  | .len2 => { s with len2 := v }
  | .len3 => { s with len3 := v }
  | .rxLen => if v.toNat > Config.bufMax then s else { s with rx := { s.rx with len := v.setWidth 11 } }
  | .pduLen => if v.toNat > Config.bufMax then s else { s with pdu := { s.pdu with len := v.setWidth 11 } }
  | .dataLen => if v.toNat > Config.dataMax then s else { s with data := { s.data with len := v.setWidth 11 } }

/-- The byte buffer of a name (10_state.md R29). -/
def State.buf (s : State) : ByteBufId → ByteBuf
  | .rx => s.rx
  | .tx => s.tx
  | .pdu => s.pdu

/-- A controller's write of one buffer byte (20_memory.md R50). -/
def writeBuf (s : State) (b : ByteBufId) (i : Nat) (v : Byte) : State :=
  match b with
  | .rx => { s with rx := { s.rx with cells := s.rx.cells.set i v } }
  | .tx => { s with tx := { s.tx with cells := s.tx.cells.set i v } }
  | .pdu => { s with pdu := { s.pdu with cells := s.pdu.cells.set i v } }

/-- A controller's write of one `DATABUF` entry (20_memory.md R50). -/
def writeData (s : State) (i : Nat) (v : Word) : State :=
  { s with data := { s.data with cells := s.data.cells.set i v } }

/-- What a controller's read returned is recorded; reading has no other effect (20_memory.md R58). -/
def State.answer (s : State) (v : BitVec 32) : State := { s with portOut := s.portOut ++ [v] }

/-- The stop signal (60_exceptions.md R315): its whole effect is `RUN <- 0`. -/
def stopSignal (s : State) : State := s.setRun false

/-- The reset event (70_reset_and_hazards.md R340): the block's whole state is that of 10_state.md R40. What is outside
the block stays: the pending inputs, the answers already given, the source of free values. -/
def resetEvent (s : State) : State :=
  { State.reset with inputs := s.inputs, hostOut := s.hostOut, portOut := s.portOut, freeCtr := s.freeCtr }

/-- What an input other than a command start does to the state. -/
def applyInput : Input → State → State
  | .command _ _, s => s
  | .portWrite r v, s => writePort s r v
  | .portRead r, s => s.answer (readPort s r)
  | .bufWrite b i v, s => writeBuf s b i.val v
  | .bufRead b i, s => s.answer (((s.buf b).cells.getD i.val 0).setWidth 32)
  | .dataWrite i v, s => writeData s i.val v
  | .dataRead i, s => s.answer ((s.data.cells.getD i.val 0).setWidth 32)
  | .host a, s => hostDo a s
  | .stop, s => stopSignal s
  | .reset, s => resetEvent s
  | .overlap, s => s

/-- The command an input starts, with the host accesses that fall inside it: a write to `CMD` (10_state.md R22). -/
def commandOf : Input → Option (Byte × List Slot)
  | .command code during => some (code, during)
  | .portWrite .cmd v => some (v.setWidth 8, [])
  | .portWrite _ _ | .portRead _ | .bufWrite _ _ _ | .bufRead _ _ | .dataWrite _ _ | .dataRead _ => none
  | .host _ | .stop | .reset | .overlap => none

/-- A controller access to the port during the command just started (70_reset_and_hazards.md R350 (a)). -/
def overlapped : List Input → Bool
  | .overlap :: _ => true
  | _ => false

/-- A command start: `CMD` holds its code (10_state.md R22), the host accesses inside it are in place. -/
def State.started (s : State) (code : Byte) (during : List Slot) (rest : List Input) : State :=
  { s with cmd := code, hostQ := during, inputs := rest }

/-- Put a table word where the machine fetches its next instruction: a command as the controller's next write to
`CMD`; a request PDU in `PDUBUF` behind the unit id that stands there, with `EXEC` as the next command. Log entry 2. -/
def placeTableWord (s : State) (nbits w : Nat) : State :=
  match tableLayer nbits w with
  | .command => { s with inputs := .command ((tableBytes nbits w).headD 0) [] :: s.inputs }
  | .wire =>
    { s with
      pdu := s.pdu.write (s.pdu.cells.headD 0 :: tableBytes nbits w)
      inputs := .command 0x18#8 [] :: s.inputs }

end Sys2Proof.Machine
end

