-- ==== Sys2Proof/Machine/Step.lean ====
section
/-! DEFINITION. One step. The block stores no program (10_state.md R24): what it does next is the outside world's next
action. A write to `CMD` fetches the instruction that the code stands for and runs it to its end, with the host
accesses that fall inside it (10_state.md R22, 20_memory.md R57). With nothing pending the block is idle and keeps
all its state (60_exceptions.md R329). -/

namespace Sys2Proof.Machine

/-- Run the command whose code `CMD` holds, then the host accesses that are left. -/
def runCommand (s : State) : Host.Outcome State Fault Refusal :=
  match exec (decodeCmd s.cmd) s with
  | .next t => .next t.hostFlush
  | .fault r => .fault r
  | .refused r => .refused r

/-- One step of the machine. -/
def step (s : State) : Host.Outcome State Fault Refusal :=
  match s.inputs with
  | [] => .next s
  | .overlap :: _ => .fault .portOverlap
  | i :: rest =>
    match commandOf i with
    | none => .next (applyInput i { s with inputs := rest })
    | some (code, during) =>
      if overlapped rest then .fault .portOverlap else runCommand (s.started code during rest)

/-- A table word stored where `step` fetches its next instruction (the host's hook). -/
def State.withFetchWord (s : State) (nbits w : Nat) : State := placeTableWord s nbits w

end Sys2Proof.Machine
end

