-- ==== Sys2Proof/Safety.lean ====
section
/-! DEFINITION. The terms statements use: the canonical form of memory, the well-formed states, which statuses a command
may end with, which elements an instruction stores to, and the spec's own second forms of functions (the bit-serial
CRC, the hex digits as numbers). -/

namespace Sys2Proof.Machine

/-! Well-formed states. -/

/-- A byte buffer has `BUF_MAX` entries and a length within them (10_state.md R29, 30_encoding.md R122). -/
def ByteBuf.wf (b : ByteBuf) : Bool := b.cells.length = Config.bufMax && b.len.toNat ≤ Config.bufMax

/-- `DATABUF` has `DATA_MAX` entries and a length within them (10_state.md R29, 30_encoding.md R122). -/
def WordBuf.wf (b : WordBuf) : Bool := b.cells.length = Config.dataMax && b.len.toNat ≤ Config.dataMax

/-- A bank has at most 65536 elements; the written ones are listed once each, by rising address, below its length
(10_state.md R32, R33). -/
def BankMem.wf {w : Nat} (m : BankMem w) : Bool := m.len ≤ 65536 && assocWf m.len m.cells

/-- The four banks of a datastore are well-formed. -/
def Store.wf (d : Store) : Bool := d.di.wf && d.co.wf && d.ir.wf && d.hr.wf

/-- The canonical form of memory: datastores by rising unit id, all at most 247 (10_state.md R32), each well-formed. -/
def memoryWf (m : List (Nat × Store)) : Bool := assocWf 248 m && m.all fun x => x.2.wf

/-- The values `MPHASE` takes between commands (46_master.md R270). -/
def MPhase.settled : MPhase → Bool
  | .idle | .sending | .done | .errored => true
  | .building | .awaitingFirstByte | .receiving | .validating => false

/-- A well-formed state: buffers within capacity, memory canonical, a CRC table that is the table once it is valid
(10_state.md R27), `SPHASE` `Idle` (R30) and `MPHASE` settled (46_master.md R270) between commands. -/
def State.wf (s : State) : Bool :=
  s.rx.wf && s.tx.wf && s.pdu.wf && s.data.wf && memoryWf s.stores &&
    (!s.crcValid || s.crcTab == crcTable) && s.sphase == .idle && s.mphase.settled

/-- The invariant of steps: a well-formed state in which no host access inside a command is left over. -/
def State.inv (s : State) : Bool := s.wf && s.hostQ.isEmpty

/-! The spec's second forms. -/

/-- The bit-serial form of one byte of `crc16` (40_checksum.md R134): the byte into the accumulator, then eight
division steps. -/
def serialByte (acc : Word) (b : Byte) : Word :=
  (List.range 8).foldl
    (fun v _ => if v.getLsbD 0 then (v >>> 1) ^^^ 0xA001#16 else v >>> 1) (acc ^^^ b.setWidth 16)

/-- The 256 entries of the CRC table as the spec prints them, eight a row (40_checksum.md R132). -/
def crcTablePrinted : List Word :=
  [0x0000#16, 0xC0C1#16, 0xC181#16, 0x0140#16, 0xC301#16, 0x03C0#16, 0x0280#16, 0xC241#16] ++
  [0xC601#16, 0x06C0#16, 0x0780#16, 0xC741#16, 0x0500#16, 0xC5C1#16, 0xC481#16, 0x0440#16] ++
  [0xCC01#16, 0x0CC0#16, 0x0D80#16, 0xCD41#16, 0x0F00#16, 0xCFC1#16, 0xCE81#16, 0x0E40#16] ++
  [0x0A00#16, 0xCAC1#16, 0xCB81#16, 0x0B40#16, 0xC901#16, 0x09C0#16, 0x0880#16, 0xC841#16] ++
  [0xD801#16, 0x18C0#16, 0x1980#16, 0xD941#16, 0x1B00#16, 0xDBC1#16, 0xDA81#16, 0x1A40#16] ++
  [0x1E00#16, 0xDEC1#16, 0xDF81#16, 0x1F40#16, 0xDD01#16, 0x1DC0#16, 0x1C80#16, 0xDC41#16] ++
  [0x1400#16, 0xD4C1#16, 0xD581#16, 0x1540#16, 0xD701#16, 0x17C0#16, 0x1680#16, 0xD641#16] ++
  [0xD201#16, 0x12C0#16, 0x1380#16, 0xD341#16, 0x1100#16, 0xD1C1#16, 0xD081#16, 0x1040#16] ++
  [0xF001#16, 0x30C0#16, 0x3180#16, 0xF141#16, 0x3300#16, 0xF3C1#16, 0xF281#16, 0x3240#16] ++
  [0x3600#16, 0xF6C1#16, 0xF781#16, 0x3740#16, 0xF501#16, 0x35C0#16, 0x3480#16, 0xF441#16] ++
  [0x3C00#16, 0xFCC1#16, 0xFD81#16, 0x3D40#16, 0xFF01#16, 0x3FC0#16, 0x3E80#16, 0xFE41#16] ++
  [0xFA01#16, 0x3AC0#16, 0x3B80#16, 0xFB41#16, 0x3900#16, 0xF9C1#16, 0xF881#16, 0x3840#16] ++
  [0x2800#16, 0xE8C1#16, 0xE981#16, 0x2940#16, 0xEB01#16, 0x2BC0#16, 0x2A80#16, 0xEA41#16] ++
  [0xEE01#16, 0x2EC0#16, 0x2F80#16, 0xEF41#16, 0x2D00#16, 0xEDC1#16, 0xEC81#16, 0x2C40#16] ++
  [0xE401#16, 0x24C0#16, 0x2580#16, 0xE541#16, 0x2700#16, 0xE7C1#16, 0xE681#16, 0x2640#16] ++
  [0x2200#16, 0xE2C1#16, 0xE381#16, 0x2340#16, 0xE101#16, 0x21C0#16, 0x2080#16, 0xE041#16] ++
  [0xA001#16, 0x60C0#16, 0x6180#16, 0xA141#16, 0x6300#16, 0xA3C1#16, 0xA281#16, 0x6240#16] ++
  [0x6600#16, 0xA6C1#16, 0xA781#16, 0x6740#16, 0xA501#16, 0x65C0#16, 0x6480#16, 0xA441#16] ++
  [0x6C00#16, 0xACC1#16, 0xAD81#16, 0x6D40#16, 0xAF01#16, 0x6FC0#16, 0x6E80#16, 0xAE41#16] ++
  [0xAA01#16, 0x6AC0#16, 0x6B80#16, 0xAB41#16, 0x6900#16, 0xA9C1#16, 0xA881#16, 0x6840#16] ++
  [0x7800#16, 0xB8C1#16, 0xB981#16, 0x7940#16, 0xBB01#16, 0x7BC0#16, 0x7A80#16, 0xBA41#16] ++
  [0xBE01#16, 0x7EC0#16, 0x7F80#16, 0xBF41#16, 0x7D00#16, 0xBDC1#16, 0xBC81#16, 0x7C40#16] ++
  [0xB401#16, 0x74C0#16, 0x7580#16, 0xB541#16, 0x7700#16, 0xB7C1#16, 0xB681#16, 0x7640#16] ++
  [0x7200#16, 0xB2C1#16, 0xB381#16, 0x7340#16, 0xB101#16, 0x71C0#16, 0x7080#16, 0xB041#16] ++
  [0x5000#16, 0x90C1#16, 0x9181#16, 0x5140#16, 0x9301#16, 0x53C0#16, 0x5280#16, 0x9241#16] ++
  [0x9601#16, 0x56C0#16, 0x5780#16, 0x9741#16, 0x5500#16, 0x95C1#16, 0x9481#16, 0x5440#16] ++
  [0x9C01#16, 0x5CC0#16, 0x5D80#16, 0x9D41#16, 0x5F00#16, 0x9FC1#16, 0x9E81#16, 0x5E40#16] ++
  [0x5A00#16, 0x9AC1#16, 0x9B81#16, 0x5B40#16, 0x9901#16, 0x59C0#16, 0x5880#16, 0x9841#16] ++
  [0x8801#16, 0x48C0#16, 0x4980#16, 0x8941#16, 0x4B00#16, 0x8BC1#16, 0x8A81#16, 0x4A40#16] ++
  [0x4E00#16, 0x8EC1#16, 0x8F81#16, 0x4F40#16, 0x8D01#16, 0x4DC0#16, 0x4C80#16, 0x8C41#16] ++
  [0x4400#16, 0x84C1#16, 0x8581#16, 0x4540#16, 0x8701#16, 0x47C0#16, 0x4680#16, 0x8641#16] ++
  [0x8201#16, 0x42C0#16, 0x4380#16, 0x8341#16, 0x4100#16, 0x81C1#16, 0x8081#16, 0x4040#16]

/-- The bit-serial form of `crc16`, which needs no table (40_checksum.md R134). -/
def crcSerial (b : List Byte) : Word := b.foldl serialByte 0xFFFF#16

/-- The sixteen characters "0123456789ABCDEF" (41_hex_mbap.md R150). -/
def hexAlphabet : List Byte :=
  [0x30#8, 0x31#8, 0x32#8, 0x33#8, 0x34#8, 0x35#8, 0x36#8, 0x37#8] ++
  [0x38#8, 0x39#8, 0x41#8, 0x42#8, 0x43#8, 0x44#8, 0x45#8, 0x46#8]

/-- `digit(c)` as a number (41_hex_mbap.md R151). -/
def digitOf (c : Byte) : Nat :=
  if 0x30 ≤ c.toNat ∧ c.toNat ≤ 0x39 then c.toNat - 0x30
  else if 0x41 ≤ c.toNat ∧ c.toNat ≤ 0x46 then c.toNat - 0x37
  else 0

/-- `p` is the place where `DEC_ASCII` starts its frame: the index of the last ':', or 0 if there is none
(43_frame_decode.md R188). -/
def startsAt (bs : List Byte) (p : Nat) : Prop :=
  (bs[p]? = some 0x3A#8 ∧ ∀ j, p < j → bs[j]? ≠ some 0x3A#8) ∨ (p = 0 ∧ ∀ j : Nat, bs[j]? ≠ some 0x3A#8)

/-! Outcomes, named once. -/

/-- What a discard leaves (60_exceptions.md R307, 43_frame_decode.md R185). -/
def State.discarded (s : State) (e : Status) : State :=
  { s with pdu := { s.pdu with len := 0 }, sphase := .idle, status := e }

/-- What accepting a frame leaves (43_frame_decode.md R185). -/
def State.accepted (s : State) (m : List Byte) : State := { s with pdu := s.pdu.write m, status := .ok }

/-- What a served request leaves beside the banks (45_request_exec.md R230): the reply message in `PDUBUF`. -/
def State.replied (s : State) (u : Byte) (r : List Byte) : State :=
  { s with pdu := s.pdu.write (u :: r), status := .ok, sphase := .idle }

/-- The CRC table built (40_checksum.md R133). -/
def State.built (s : State) : State := { s with crcTab := crcTable, crcValid := true }

/-- The unit id a request runs against: `PDUBUF[0]` (45_request_exec.md R230). -/
def State.reqUnit (s : State) : Byte := s.pdu.cells.headD 0

/-- The four lengths of a datastore (10_state.md R32). -/
def Store.lens (d : Store) : Nat × Nat × Nat × Nat := (d.di.len, d.co.len, d.ir.len, d.hr.len)

/-- What exists for a unit: nothing if it is not present, else its four lengths (10_state.md R32). -/
def State.shape (s : State) (u : Byte) : Option (Nat × Nat × Nat × Nat) := (s.store u).map Store.lens

/-! Which elements an instruction stores to. -/

/-- A host access pending inside the command writes this element. -/
def hostWrites (q : List Slot) (u : Byte) (b : BankName) (a : Nat) : Bool :=
  q.any fun slot => match slot.acc with
    | .write u' b' a' _ => u' == u && b' == b && a' == a
    | .read _ _ _ => false

/-- A request stores to element (`b`, `a`) of its unit, if it passes its checks (45_request_exec.md R232). -/
def requestStores (i : Instr) (b : BankName) (a : Nat) : Bool :=
  match i with
  | .wrCoil addr _ => b == .co && a == addr.toNat
  | .wrReg addr _ => b == .hr && a == addr.toNat
  | .wrCoils start qty _ _ => b == .co && decide (start.toNat ≤ a) && decide (a < start.toNat + qty.toNat)
  | .wrRegs start qty _ _ => b == .hr && decide (start.toNat ≤ a) && decide (a < start.toNat + qty.toNat)
  | .maskWr addr _ _ => b == .hr && a == addr.toNat
  | .rwRegs _ _ wstart wqty _ _ => b == .hr && decide (wstart.toNat ≤ a) && decide (a < wstart.toNat + wqty.toNat)
  | _ => false

/-- The elements the request message in `PDUBUF` stores to when `EXEC` runs it (45_request_exec.md R230, R232). -/
def execStores (s : State) (u : Byte) (b : BankName) (a : Nat) : Bool :=
  match decodePdu s.pdu.bytes.tail with
  | .ok j => u == s.reqUnit && requestStores j b a
  | .error _ => false

/-- The elements an instruction may store to in a state: a request its own, `EXEC` those of the request in `PDUBUF`, a
slave cycle those of the request it decodes from `RXBUF`, `BANK_WR` the one it addresses, a constructor of datastores
those of the unit it creates. -/
def storesTo (i : Instr) (s : State) (u : Byte) (b : BankName) (a : Nat) : Bool :=
  match i with
  | .bankWr => u == s.unit && b == bankOfSel s.bank && a == s.addr.toNat
  | .dsNew | .dsNewDefault => u == s.unit
  | .execReq => execStores s u b a
  | .slaveRtu => execStores (runDecRtu (s.setSphase .decoding)) u b a
  | .slaveAscii => execStores (runDecAscii (s.setSphase .decoding)) u b a
  | .slaveMbap => execStores (runDecMbap (s.setSphase .decoding)) u b a
  | j => u == s.reqUnit && requestStores j b a

/-- The registers, buffers and internal state an instruction leaves alone: `t` is `s` but for the pieces its rule names
(10_state.md R22, 30_encoding.md R120). The host's schedule and answers may move wherever elements are accessed. -/
def Keeps (i : Instr) (s t : State) : Prop :=
  match i with
  | .rdCoils _ _ | .rdDiscrete _ _ | .rdHolding _ _ | .rdInput _ _ | .wrCoil _ _ | .wrReg _ _ | .wrCoils _ _ _ _
  | .wrRegs _ _ _ _ | .maskWr _ _ _ | .rwRegs _ _ _ _ _ _ | .unrecognized _ | .execReq =>
    t = { s with
      pdu := t.pdu, status := t.status, sphase := t.sphase, stores := t.stores, hostQ := t.hostQ,
      hostOut := t.hostOut }
  | .crc16 => t = { s with res := t.res, status := t.status, crcTab := t.crcTab, crcValid := t.crcValid }
  | .lrc => t = { s with res := t.res, status := t.status }
  | .hexenc | .mbapBuild | .encAscii | .encMbap => t = { s with tx := t.tx, status := t.status }
  | .hexdec => t = { s with pdu := t.pdu, status := t.status }
  | .mbapParse =>
    t = { s with mtid := t.mtid, proto := t.proto, mlen := t.mlen, unit := t.unit, status := t.status }
  | .encRtu => t = { s with tx := t.tx, status := t.status, crcTab := t.crcTab, crcValid := t.crcValid }
  | .decRtu =>
    t = { s with
      pdu := t.pdu, status := t.status, sphase := t.sphase, crcTab := t.crcTab, crcValid := t.crcValid }
  | .decAscii => t = { s with pdu := t.pdu, status := t.status, sphase := t.sphase }
  | .decMbap =>
    t = { s with
      pdu := t.pdu, status := t.status, sphase := t.sphase, mtid := t.mtid, proto := t.proto, mlen := t.mlen }
  | .dsNew | .dsNewDefault => t = { s with stores := t.stores, status := t.status }
  | .bankRd =>
    t = { s with
      res := t.res, status := t.status, stores := t.stores, hostQ := t.hostQ, hostOut := t.hostOut }
  | .bankWr => t = { s with status := t.status, stores := t.stores, hostQ := t.hostQ, hostOut := t.hostOut }
  | .slaveRtu =>
    t = { s with
      tx := t.tx, pdu := t.pdu, status := t.status, sphase := t.sphase, stores := t.stores, hostQ := t.hostQ,
      hostOut := t.hostOut, freeCtr := t.freeCtr, crcTab := t.crcTab, crcValid := t.crcValid }
  | .slaveAscii =>
    t = { s with
      tx := t.tx, pdu := t.pdu, status := t.status, sphase := t.sphase, stores := t.stores, hostQ := t.hostQ,
      hostOut := t.hostOut, freeCtr := t.freeCtr }
  | .slaveMbap =>
    t = { s with
      tx := t.tx, pdu := t.pdu, status := t.status, sphase := t.sphase, stores := t.stores, hostQ := t.hostQ,
      hostOut := t.hostOut, freeCtr := t.freeCtr, mtid := t.mtid, proto := t.proto, mlen := t.mlen }
  | .nextTxid => t = { s with txid := t.txid, mtid := t.mtid, res := t.res, status := t.status }
  | .req =>
    t = { s with pdu := t.pdu, mphase := t.mphase, qty := t.qty, wqty := t.wqty, status := t.status, tx := t.tx }
  | .mreqRtu =>
    t = { s with
      pdu := t.pdu, mphase := t.mphase, qty := t.qty, wqty := t.wqty, status := t.status, tx := t.tx,
      crcTab := t.crcTab, crcValid := t.crcValid }
  | .mreqAscii =>
    t = { s with pdu := t.pdu, mphase := t.mphase, qty := t.qty, wqty := t.wqty, status := t.status, tx := t.tx }
  | .mreqMbap =>
    t = { s with
      pdu := t.pdu, mphase := t.mphase, qty := t.qty, wqty := t.wqty, status := t.status, tx := t.tx,
      txid := t.txid, mtid := t.mtid, res := t.res }
  | .rspRtu =>
    t = { s with
      pdu := t.pdu, mphase := t.mphase, data := t.data, status := t.status, freeCtr := t.freeCtr,
      crcTab := t.crcTab, crcValid := t.crcValid }
  | .rspAscii | .rspMbap =>
    t = { s with
      pdu := t.pdu, mphase := t.mphase, data := t.data, status := t.status, freeCtr := t.freeCtr }
  | .start | .stop => t = { s with run := t.run, status := t.status }
  | .undefinedCmd _ => t = { s with status := t.status }

/-! What requests read and write, in terms of element reads. -/

/-- The elements of bank `b` of unit `u` from `start` on read as `vals`. -/
def Holds (s : State) (u : Byte) (b : BankName) (start : Nat) (vals : List Word) : Prop :=
  ∀ k, k < vals.length → bankRead s u b (start + k) = .ok (vals.getD k 0)

/-- `t` is reached by writing `vals` to the elements from `start` on: they read back, every other element of every bank
of every unit reads as before, no length changes and no datastore appears (44_bank.md R219). -/
def Stored (s t : State) (u : Byte) (b : BankName) (start : Nat) (vals : List Word) : Prop :=
  Holds t u b start vals ∧
    (∀ u' b' a, (u' ≠ u ∨ b' ≠ b ∨ a < start ∨ start + vals.length ≤ a) →
      bankRead t u' b' a = bankRead s u' b' a) ∧
    ∀ w, t.shape w = s.shape w

/-- `data` is the bits of `es` packed: bit `i mod 8` of byte `i div 8` is bit 0 of entry `i`, the unused bits are 0
(30_encoding.md R91). -/
def PackedAs (data : List Byte) (es : List Word) : Prop :=
  data.length = (es.length + 7) / 8 ∧
    (∀ i, i < es.length → (data.getD (i / 8) 0).getLsbD (i % 8) = (es.getD i 0).getLsbD 0) ∧
    ∀ i, es.length ≤ i → (data.getD (i / 8) 0).getLsbD (i % 8) = false

/-- A request with function code `fc` whose PDU is shorter than `n` bytes is discarded: step 0 of the function
(45_request_exec.md R234, R235 (a)). -/
def ShortDiscarded (fc : Byte) (n : Nat) : Prop :=
  ∀ (s : State) (u : Byte) (rest : List Byte) (d : Store),
    s.pdu.bytes = u :: fc :: rest → rest.length + 1 < n → s.store u = some d →
      exec .execReq s = .next (s.discarded .discardedFraming)

/-! What the master's commands leave (46_master.md). -/

/-- The first quantity check that fails, `(quantity, bound)` each (46_master.md R273, `chk`). -/
def checkFails : List (Nat × Nat) → Option Status
  | [] => none
  | (q, m) :: t =>
    if q = 0 then some .zeroRegistersRequested
    else if m < q then some .tooManyRegistersRequested
    else checkFails t

/-- How `REQ` ends for one row of 46_master.md R273: the quantity checks, the request PDU, the state with the row's
quantity register written. A failed check leaves no message and no frame (60_exceptions.md R305; log entry 15). -/
def reqEnds (s : State) (checks : List (Nat × Nat)) (p : List Byte) (s' : State) : State :=
  match checkFails checks with
  | some e =>
    { s with pdu := { s.pdu with len := 0 }, tx := { s.tx with len := 0 }, mphase := .errored, status := e }
  | none => { s' with pdu := s.pdu.write (s.unit :: p), mphase := .sending, status := .ok }

/-- A local error or an exception of `RSP_*` (46_master.md R276): the status, the phase, and for a reading function no
data; what `DATABUF` then holds is not said. -/
def RspFailed (s t : State) (e : Status) : Prop :=
  t = { s with mphase := .errored, status := e, data := t.data, freeCtr := t.freeCtr } ∧
    (isReading s.fc = true → t.data.len = 0) ∧
    (isReading s.fc = false → t.data = s.data ∧ t.freeCtr = s.freeCtr)

/-- A read reply of `RSP_*` (46_master.md R279): the byte count must be the quantity's and the data must be there; the
decoded elements go to `DATABUF`. A quantity raised above 2000 since the request does not fit `DATABUF`
(30_encoding.md R122; log entry 11). -/
def RspRead (s0 s t : State) (need : Nat) (p : List Byte) (value : Nat → Word) : Prop :=
  if (p.getD 1 0).toNat ≠ need ∨ p.length < 2 + (p.getD 1 0).toNat then RspFailed s t .wrongMessageLen
  else if 2000 < s.qty.toNat then t = { s0 with status := .badCommand }
  else
    t = { s with
      data := s.data.write ((List.range s.qty.toNat).map value), mphase := .done, status := .ok }

/-- The echo of a write in `RSP_*` (46_master.md R279): the length, then each field with the error of a difference. -/
def RspEcho (s t : State) (p : List Byte) (need : Nat) : List (Nat × Word × Status) → Prop
  | [] => if p.length < need then RspFailed s t .wrongMessageLen else t = { s with mphase := .done, status := .ok }
  | (k, v, e) :: fs =>
    if p.length < need then RspFailed s t .wrongMessageLen
    else if u16be (p.getD k 0) (p.getD (k + 1) 0) ≠ v then RspFailed s t e
    else RspEcho s t p need fs

/-- Checking the reply PDU `p` against the request (46_master.md R279): `s0` is the state the command started in, `s` the
state the envelope was accepted in, with the message in `PDUBUF`, `t` what the command leaves. -/
def Checked (s0 s t : State) (p : List Byte) : Prop :=
  if (p.getD 0 0).getLsbD 7 then
    RspFailed s t
      (if p.getD 1 0 = 1 then .exceptionIllegalFunction
      else if p.getD 1 0 = 2 then .exceptionIllegalDataAddress
      else if p.getD 1 0 = 3 then .exceptionIllegalDataValue
      else if p.getD 1 0 = 4 then .exceptionSlaveDeviceFailure
      else .exceptionOther)
  else if s.fc = 0x01 ∨ s.fc = 0x02 then
    RspRead s0 s t ((s.qty.toNat + 7) / 8) p fun i => if (p.getD (2 + i / 8) 0).getLsbD (i % 8) then 1 else 0
  else if s.fc = 0x03 ∨ s.fc = 0x04 ∨ s.fc = 0x17 then
    RspRead s0 s t (2 * s.qty.toNat) p fun i => u16be (p.getD (2 + 2 * i) 0) (p.getD (3 + 2 * i) 0)
  else if s.fc = 0x05 then
    RspEcho s t p 5
      [(1, s.addr, .wrongResponseRegAddress),
        (3, if s.val.getLsbD 0 then 0xFF00#16 else 0x0000#16, .wrongResponseValue)]
  else if s.fc = 0x06 then
    RspEcho s t p 5 [(1, s.addr, .wrongResponseRegAddress), (3, s.val, .wrongResponseValue)]
  else if s.fc = 0x0F ∨ s.fc = 0x10 then
    RspEcho s t p 5 [(1, s.addr, .wrongResponseRegAddress), (3, s.qty, .wrongResponseQuantity)]
  else if s.fc = 0x16 then
    RspEcho s t p 7
      [(1, s.addr, .wrongResponseRegAddress), (3, s.val, .wrongResponseAndMask), (5, s.val2, .wrongResponseOrMask)]
  else
    t = { s with mphase := .errored, status := .badCommand, data := t.data, freeCtr := t.freeCtr } ∧ t.data.len = 0

/-- Checking the stripped message `m` against the request (46_master.md R279): it is in `PDUBUF`, its PDU is checked. -/
def Judged (s0 s t : State) (m : List Byte) : Prop := Checked s0 { s with pdu := s.pdu.write m } t m.tail

/-! Which statuses a command can end with. -/

/-- The statuses an echo check can give: codes 10 to 14 (60_exceptions.md R300). -/
def echoStatuses : List Status :=
  [.wrongResponseRegAddress, .wrongResponseQuantity, .wrongResponseValue, .wrongResponseAndMask, .wrongResponseOrMask]

/-- The remote statuses: codes 17 to 21 (60_exceptions.md R300). -/
def remoteStatuses : List Status :=
  [.exceptionIllegalFunction, .exceptionIllegalDataAddress, .exceptionIllegalDataValue] ++
  [.exceptionSlaveDeviceFailure, .exceptionOther]

/-- The matrix of 60_exceptions.md R327: the statuses each command can end with. A request PDU ends as its `EXEC`
does once the PDU is decoded. -/
def allowedStatuses : Instr → List Status
  | .crc16 | .lrc | .hexdec | .nextTxid | .start | .stop => [.ok]
  | .hexenc | .mbapBuild | .encRtu | .encAscii | .encMbap => [.ok, .badCommand]
  | .mbapParse => [.ok, .wrongMessageLen]
  | .decRtu | .decAscii => [.ok, .discardedShort, .discardedFraming, .discardedChecksum]
  | .decMbap => [.ok, .discardedShort, .discardedFraming]
  | .dsNew => [.ok, .unitIdRange, .sizeRange, .duplicateUnit]
  | .dsNewDefault => [.ok, .unitIdRange, .duplicateUnit]
  | .bankRd | .bankWr => [.ok, .noSuchUnit, .outOfRange]
  | .execReq => [.ok, .discardedFraming, .discardedUnit]
  | .slaveRtu | .slaveAscii =>
    [.ok, .stopRequested, .discardedShort, .discardedFraming, .discardedChecksum, .discardedUnit]
  | .slaveMbap => [.ok, .stopRequested, .discardedShort, .discardedFraming, .discardedUnit]
  | .req | .mreqRtu | .mreqAscii | .mreqMbap =>
    [.ok, .busy, .badCommand, .zeroRegistersRequested, .tooManyRegistersRequested]
  | .rspRtu =>
    [.ok, .badCommand, .rxTimeout, .wrongMessageLen, .wrongCrc, .wrongResponseAddress] ++ echoStatuses ++ remoteStatuses
  | .rspAscii =>
    [.ok, .badCommand, .rxTimeout, .wrongMessageLen, .startCharNotFound, .endCharsNotFound] ++
      [.wrongLrc, .wrongResponseAddress] ++ echoStatuses ++ remoteStatuses
  | .rspMbap =>
    [.ok, .badCommand, .rxTimeout, .wrongMessageLen, .wrongTransactionId, .wrongProtocolId] ++
      [.wrongResponseAddress] ++ echoStatuses ++ remoteStatuses
  | .undefinedCmd _ => [.badCommand]
  | .rdCoils _ _ | .rdDiscrete _ _ | .rdHolding _ _ | .rdInput _ _ | .wrCoil _ _ | .wrReg _ _ => [.ok, .discardedUnit]
  | .wrCoils _ _ _ _ | .wrRegs _ _ _ _ | .maskWr _ _ _ | .rwRegs _ _ _ _ _ _ => [.ok, .discardedUnit]
  | .unrecognized _ => [.ok, .discardedUnit]

end Sys2Proof.Machine
end

