-- ==== Sys2Proof/Certificates/Slice0/Obligations.lean ====
section
/-! DEFINITION. The statements for the provers, one definition each. A state is any state of the model, reachable or not,
unless a premise says it is well-formed (`State.wf`), which `Obligations.StepKeepsInv` shows every step keeps. Where a
statement gives a whole next state, the buffer entries at or beyond a length register are as the model keeps them (10_state.md
R22; log entry 16). -/

open Sys2Proof Sys2Proof.Machine

/-! Encodings. -/

/-- Decoding the encoding of a well-formed instruction gives it back, in the layer it belongs to, with every operand at
every value (30_encoding.md R101 to R108, R120). -/
def Obligations.DecodeEncodeAgree : Prop :=
  ∀ i : Instr, i.wf = true → decode i.layer (encode i) = .ok i

/-- The other direction: a request PDU that decodes starts with the encoding of what it decodes to, which is a
well-formed request; bytes beyond the layout are ignored (45_request_exec.md R235 (c)). -/
def Obligations.DecodePduExact : Prop :=
  ∀ (bs : List Byte) (i : Instr), decodePdu bs = .ok i →
    i.wf = true ∧ i.layer = .wire ∧ ∃ rest, bs = encode i ++ rest

/-- A sanity statement: some words written out from the spec's encodings decode to what they stand for. -/
def Obligations.SpecWordsDecode : Prop :=
  decode .wire [0x03, 0x00, 0x00, 0x00, 0x0A] = .ok (.rdHolding 0x0000 0x000A) ∧
    decode .wire [0x05, 0x00, 0x0A, 0xFF, 0x00] = .ok (.wrCoil 0x000A 0xFF00) ∧
    decode .wire [0x0F, 0x00, 0x04, 0x00, 0x0A, 0x02, 0xCD, 0x01] = .ok (.wrCoils 0x0004 0x000A 0x02 [0xCD, 0x01]) ∧
    decode .wire [0x16, 0x00, 0x04, 0x00, 0xF2, 0x00, 0x25] = .ok (.maskWr 0x0004 0x00F2 0x0025) ∧
    decode .wire [0x17, 0x00, 0x00, 0x00, 0x02, 0x00, 0x00, 0x00, 0x01, 0x02, 0xAA, 0x55] =
      .ok (.rwRegs 0x0000 0x0002 0x0000 0x0001 0x02 [0xAA, 0x55]) ∧
    decode .wire [0x2B, 0x0E, 0x01, 0x00] = .ok (.unrecognized 0x2B) ∧
    decode .command [0x01] = .ok .crc16 ∧ decode .command [0x1C] = .ok .slaveRtu ∧
    decode .command [0x2A] = .ok .rspMbap ∧ decode .command [0x32] = .ok (.undefinedCmd 0x32)

/-- The undefined command codes are the ones R121 lists; each ends at once with `BadCommand` and changes nothing else
(30_encoding.md R121). -/
def Obligations.UndefinedCommands : Prop :=
  ∀ c : Byte,
    (isCommand c = false ↔
      c.toNat ∈ [0x00, 0x07, 0x0B, 0x0F, 0x1F, 0x22, 0x23, 0x27] ∨ (0x14 ≤ c.toNat ∧ c.toNat ≤ 0x17) ∨
        (0x19 ≤ c.toNat ∧ c.toNat ≤ 0x1B) ∨ (0x2B ≤ c.toNat ∧ c.toNat ≤ 0x2F) ∨ 0x32 ≤ c.toNat) ∧
    (isCommand c = false → decodeCmd c = .undefinedCmd c) ∧
    ∀ s : State, exec (.undefinedCmd c) s = .next { s with status := .badCommand }

/-! Checksums. -/

/-- The CRC table: every entry is the eight division steps of R131 on its index, and the 256 entries are those R132 prints
(40_checksum.md R131, R132). -/
def Obligations.CrcTableEntries : Prop :=
  (∀ i, i < 256 → crcTable.getD i 0 = serialByte 0 (BitVec.ofNat 8 i)) ∧ crcTable = crcTablePrinted

/-- `CRC16`: `RES` receives the CRC of the message, computed here by the bit-serial form of R134, whether or not the
table had been built; the table is built and valid afterwards; nothing else changes (40_checksum.md R135). -/
def Obligations.Crc16Command : Prop :=
  ∀ s : State, s.wf = true →
    exec .crc16 s =
      .next { s with res := crcSerial s.pdu.bytes, crcTab := crcTable, crcValid := true, status := .ok }

/-- The laws of `crc16` (40_checksum.md R136): the empty sequence, continuation, the residue, the leading zero. -/
def Obligations.CrcLaws : Prop :=
  crc16 [] = 0xFFFF ∧ (∀ a b : List Byte, crc16 (a ++ b) = b.foldl (crcUpdate crcTable) (crc16 a)) ∧
    (∀ m : List Byte, crc16 (m ++ [lo8 (crc16 m), hi8 (crc16 m)]) = 0) ∧ crc16 [0x00] = 0x40BF

/-- `LRC`: `RES` receives the two's complement of the sum of the message's bytes modulo 256; nothing else changes
(40_checksum.md R139). -/
def Obligations.LrcCommand : Prop :=
  ∀ s : State,
    exec .lrc s =
      .next { s with
        res := BitVec.ofNat 16 ((256 - (s.pdu.bytes.map BitVec.toNat).sum % 256) % 256), status := .ok }

/-- The laws of `lrc` (40_checksum.md R140): the empty sequence, the sum with the bytes, the appended LRC, the order. -/
def Obligations.LrcLaws : Prop :=
  lrc [] = 0 ∧
    (∀ b : List Byte, ((b.map BitVec.toNat).sum + (lrc b).toNat) % 256 = 0 ∧ lrc (b ++ [lrc b]) = 0) ∧
    ∀ a b : List Byte, a.Perm b → lrc a = lrc b

/-! Hex and the MBAP header. -/

/-- `HEXENC`: two characters of "0123456789ABCDEF" a byte, high nibble first, into `TXBUF`; a message above 512 bytes is
refused (41_hex_mbap.md R152). -/
def Obligations.HexencCommand : Prop :=
  ∀ s : State,
    exec .hexenc s =
      .next
        (if 1024 < 2 * s.pdu.bytes.length then { s with status := .badCommand }
        else
          { s with
            tx := s.tx.write (s.pdu.bytes.flatMap fun b =>
              [hexAlphabet.getD (b.toNat / 16) 0, hexAlphabet.getD (b.toNat % 16) 0])
            status := .ok })

/-- `HEXDEC`: a byte for each pair of characters, a character that is no digit reads 0, an odd last one is ignored; never
an error (41_hex_mbap.md R153). -/
def Obligations.HexdecCommand : Prop :=
  ∀ s : State,
    exec .hexdec s =
      .next { s with
        pdu := s.pdu.write ((List.range (s.rx.bytes.length / 2)).map fun k =>
          BitVec.ofNat 8 (16 * digitOf (s.rx.bytes.getD (2 * k) 0) + digitOf (s.rx.bytes.getD (2 * k + 1) 0)))
        status := .ok }

/-- The laws of the hex pair (41_hex_mbap.md R154): the round trip, when the other direction holds, the lengths. -/
def Obligations.HexRoundTrip : Prop :=
  (∀ b : List Byte, hexdec (hexenc b) = b ∧ (hexenc b).length = 2 * b.length) ∧
    (∀ t : List Byte, hexenc (hexdec t) = t ↔ t.length % 2 = 0 ∧ ∀ c ∈ t, c ∈ hexAlphabet) ∧
    (∀ t : List Byte, (hexdec t).length = t.length / 2) ∧ hexdec [0x3A, 0x47] = [0x00] ∧ hexdec [0x30, 0x30] = [0x00]

/-- `MBAP_BUILD` and `MBAP_PARSE` (41_hex_mbap.md R156, R157): the seven header bytes of `MTID` and the message, refused
without a unit id byte; the four fields of a header, unjudged, below seven bytes an error and nothing else. -/
def Obligations.MbapCommands : Prop :=
  ∀ s : State,
    (s.pdu.bytes = [] → exec .mbapBuild s = .next { s with status := .badCommand }) ∧
    (∀ (u : Byte) (t : List Byte), s.pdu.bytes = u :: t →
      exec .mbapBuild s =
        .next { s with
          tx := s.tx.write
            ([hi8 s.mtid, lo8 s.mtid, 0, 0] ++
              [BitVec.ofNat 8 ((t.length + 1) / 256), BitVec.ofNat 8 ((t.length + 1) % 256), u])
          status := .ok }) ∧
    let f := s.rx.bytes
    exec .mbapParse s =
      .next
        (if f.length < 7 then { s with status := .wrongMessageLen }
        else
          { s with
            mtid := BitVec.ofNat 16 ((f.getD 0 0).toNat * 256 + (f.getD 1 0).toNat)
            proto := BitVec.ofNat 16 ((f.getD 2 0).toNat * 256 + (f.getD 3 0).toNat)
            mlen := BitVec.ofNat 16 ((f.getD 4 0).toNat * 256 + (f.getD 5 0).toNat)
            unit := f.getD 6 0
            status := .ok })

/-- Laws of the header (41_hex_mbap.md R158): parsing a built header returns the transaction id, 0, the message length
and the unit id; a built frame is `6 + MLEN` bytes. -/
def Obligations.MbapHeaderLaws : Prop :=
  ∀ (t : Word) (m rest : List Byte), 1 ≤ m.length → m.length ≤ 65535 →
    (∀ s : State, s.rx.bytes = mbapHeader t m ++ rest →
      exec .mbapParse s =
        .next { s with
          mtid := t, proto := 0, mlen := BitVec.ofNat 16 m.length, unit := m.headD 0, status := .ok }) ∧
    (mbapFrame t m).length = 6 + (field (mbapFrame t m) 4).toNat

/-! Frames. -/

/-- `ENC_RTU` (42_frame_encode.md R171): the message and its CRC, low byte first. -/
def Obligations.EncRtuCommand : Prop :=
  ∀ s : State, s.wf = true →
    exec .encRtu s =
      .next
        (if s.pdu.bytes.length < 2 ∨ 1024 < s.pdu.bytes.length + 2 then { s with status := .badCommand }
        else
          { s.built with
            tx := s.tx.write (s.pdu.bytes ++ [lo8 (crcSerial s.pdu.bytes), hi8 (crcSerial s.pdu.bytes)])
            status := .ok })

/-- `ENC_ASCII` (42_frame_encode.md R172): ':', the hex of the message and its LRC, CR LF. -/
def Obligations.EncAsciiCommand : Prop :=
  ∀ s : State,
    exec .encAscii s =
      .next
        (if s.pdu.bytes.length < 2 ∨ 1024 < 2 * s.pdu.bytes.length + 5 then { s with status := .badCommand }
        else
          { s with
            tx := s.tx.write
              (0x3A#8 ::
                ((s.pdu.bytes ++
                    [BitVec.ofNat 8 (256 - (s.pdu.bytes.map BitVec.toNat).sum % 256)]).flatMap fun b =>
                  [hexAlphabet.getD (b.toNat / 16) 0, hexAlphabet.getD (b.toNat % 16) 0]) ++
                [0x0D#8, 0x0A#8])
            status := .ok })

/-- `ENC_MBAP` (42_frame_encode.md R173): the transaction id, two zero bytes, the length, the message. -/
def Obligations.EncMbapCommand : Prop :=
  ∀ s : State,
    exec .encMbap s =
      .next
        (if s.pdu.bytes.length < 2 ∨ 1024 < s.pdu.bytes.length + 6 then { s with status := .badCommand }
        else
          { s with
            tx := s.tx.write
              ([hi8 s.mtid, lo8 s.mtid, 0, 0] ++
                [BitVec.ofNat 8 (s.pdu.bytes.length / 256), BitVec.ofNat 8 (s.pdu.bytes.length % 256)] ++
                s.pdu.bytes)
            status := .ok })

/-- The laws of the encoders (42_frame_encode.md R174): the decoder of the same transport accepts what the encoder made
and returns the message, in any well-formed state that holds the frame in `RXBUF`; the frame lengths; a built ASCII
frame has one ':', its first character. -/
def Obligations.DecodersAcceptEncoders : Prop :=
  ∀ s r : State, s.wf = true → r.wf = true → 2 ≤ s.pdu.bytes.length →
    (s.pdu.bytes.length + 2 ≤ 1024 →
      ∃ t, exec .encRtu s = .next t ∧ t.tx.bytes.length = s.pdu.bytes.length + 2 ∧
        (r.rx.bytes = t.tx.bytes → exec .decRtu r = .next (r.built.accepted s.pdu.bytes))) ∧
    (2 * s.pdu.bytes.length + 5 ≤ 1024 →
      ∃ t, exec .encAscii s = .next t ∧ t.tx.bytes.length = 2 * s.pdu.bytes.length + 5 ∧
        (∀ k : Nat, t.tx.bytes[k]? = some 0x3A#8 ↔ k = 0) ∧
        (r.rx.bytes = t.tx.bytes → exec .decAscii r = .next (r.accepted s.pdu.bytes))) ∧
    (s.pdu.bytes.length + 6 ≤ 1024 →
      ∃ t, exec .encMbap s = .next t ∧ t.tx.bytes.length = s.pdu.bytes.length + 6 ∧
        (r.rx.bytes = t.tx.bytes →
          exec .decMbap r =
            .next (State.accepted
              { r with mtid := s.mtid, proto := 0, mlen := BitVec.ofNat 16 s.pdu.bytes.length } s.pdu.bytes)))

/-- `DEC_RTU` (43_frame_decode.md R186): the checks in order, the message on acceptance; the test by comparison is the
test that the CRC of the whole frame is 0. -/
def Obligations.DecRtuCommand : Prop :=
  ∀ s : State, s.wf = true →
    let f := s.rx.bytes
    let m := f.length
    exec .decRtu s =
        .next
          (if m < 3 then s.discarded .discardedShort
          else if m < 4 then s.discarded .discardedFraming
          else if (crcSerial (f.take (m - 2))).toNat ≠ (f.getD (m - 2) 0).toNat + 256 * (f.getD (m - 1) 0).toNat then
            s.built.discarded .discardedChecksum
          else s.built.accepted (f.take (m - 2))) ∧
      (4 ≤ m →
        ((crcSerial (f.take (m - 2))).toNat = (f.getD (m - 2) 0).toNat + 256 * (f.getD (m - 1) 0).toNat ↔
          crcSerial f = 0))

/-- `DEC_ASCII` (43_frame_decode.md R188): the frame starts at the last ':' (R189), then the checks in order. -/
def Obligations.DecAsciiCommand : Prop :=
  ∀ (s : State) (p : Nat), startsAt s.rx.bytes p →
    let f := s.rx.bytes.drop p
    let k := f.length
    let b := hexdec ((f.drop 1).take (k - 3))
    exec .decAscii s =
      .next
        (if k < 3 then s.discarded .discardedShort
        else if f.getD 0 0 ≠ 0x3A#8 then s.discarded .discardedFraming
        else if f.getD (k - 2) 0 ≠ 0x0D#8 ∨ f.getD (k - 1) 0 ≠ 0x0A#8 then s.discarded .discardedFraming
        else if (k - 3) / 2 < 3 then s.discarded .discardedFraming
        else if (((b.take ((k - 3) / 2 - 1)).map BitVec.toNat).sum + (b.getD ((k - 3) / 2 - 1) 0).toNat) % 256 ≠ 0 then
          s.discarded .discardedChecksum
        else s.accepted (b.take ((k - 3) / 2 - 1)))

/-- `DEC_MBAP` (43_frame_decode.md R191): lengths, protocol id, declared length; the transaction id is kept in `MTID`. -/
def Obligations.DecMbapCommand : Prop :=
  ∀ s : State,
    let f := s.rx.bytes
    let m := f.length
    let len := (f.getD 4 0).toNat * 256 + (f.getD 5 0).toNat
    exec .decMbap s =
      .next
        (if m < 3 then s.discarded .discardedShort
        else if m < 8 then s.discarded .discardedFraming
        else if ¬ (f.getD 2 0 = 0 ∧ f.getD 3 0 = 0) then s.discarded .discardedFraming
        else if len ≠ m - 6 then s.discarded .discardedFraming
        else
          State.accepted
            { s with mtid := u16be (f.getD 0 0) (f.getD 1 0), proto := 0, mlen := BitVec.ofNat 16 len } (f.drop 6))

/-! Banks. -/

/-- `DS_NEW` and `DS_NEW_DEFAULT` (44_bank.md R210, R211): the three checks in order; then the unit exists with the
lengths asked for, each of its elements holds its `BANK_INIT` value, and no other unit changes. -/
def Obligations.DsNewCommands : Prop :=
  ∀ (s : State) (i : Instr) (l0 l1 l2 l3 : Nat),
    ((i = .dsNew ∧ l0 = s.len0.toNat ∧ l1 = s.len1.toNat ∧ l2 = s.len2.toNat ∧ l3 = s.len3.toNat) ∨
      (i = .dsNewDefault ∧ l0 = 65536 ∧ l1 = 65536 ∧ l2 = 65536 ∧ l3 = 65536)) →
    if 247 < s.unit.toNat then exec i s = .next { s with status := .unitIdRange }
    else if 65536 < l0 ∨ 65536 < l1 ∨ 65536 < l2 ∨ 65536 < l3 then exec i s = .next { s with status := .sizeRange }
    else if s.shape s.unit ≠ none then exec i s = .next { s with status := .duplicateUnit }
    else
      ∃ t, exec i s = .next t ∧ t = { s with stores := t.stores, status := .ok } ∧
        t.shape s.unit = some (l0, l1, l2, l3) ∧
        (∀ b a, a < (match b with | .di => l0 | .co => l1 | .ir => l2 | .hr => l3) →
          bankRead t s.unit b a = .ok (initElem s.unit b a)) ∧
        ∀ v, v ≠ s.unit → t.store v = s.store v

/-- `BANK_RD` and `BANK_WR` (44_bank.md R216, R217), after the host accesses that fall before their one element access:
the unit, then the address; a read returns the element in `RES`, a write stores bit 0 or all 16 bits. -/
def Obligations.BankCommands : Prop :=
  ∀ (s : State) (b : BankName), (s.bank.toNat, b) ∈ [(0, .di), (1, .co), (2, .ir), (3, BankName.hr)] →
    let h := s.hostTurn
    (h.store h.unit = none →
      exec .bankRd s = .next { h with status := .noSuchUnit } ∧
        exec .bankWr s = .next { h with status := .noSuchUnit }) ∧
    ∀ d, h.store h.unit = some d →
      if h.addr.toNat < d.len b then
        exec .bankRd s = .next { h with res := d.elem h.unit b h.addr.toNat, status := .ok } ∧
          ∃ t, exec .bankWr s = .next t ∧ t = { h with stores := t.stores, status := .ok } ∧
            Stored h t h.unit b h.addr.toNat
              [match b with | .di | .co => if h.val.getLsbD 0 then 1 else 0 | .ir | .hr => h.val]
      else
        exec .bankRd s = .next { h with status := .outOfRange } ∧
          exec .bankWr s = .next { h with status := .outOfRange }

/-- Laws of the bank (44_bank.md R219): an element reads as the value last written, or as its `BANK_INIT` value; a write
below the length is read back and changes that element alone, no length and no presence; at the length and above,
reads and writes fail. -/
def Obligations.BankLaws : Prop :=
  ∀ (s : State) (u : Byte) (d : Store), s.store u = some d → ∀ (b : BankName) (a : Nat) (v : Word),
    if a < d.len b then
      bankRead s u b a = .ok (match d.written b a with | some x => x | none => initElem u b a) ∧
      ∃ t, bankWrite s u b a v = .ok t ∧ t = { s with stores := t.stores } ∧
        Stored s t u b a [match b with | .di | .co => if v.getLsbD 0 then 1 else 0 | .ir | .hr => v]
    else bankRead s u b a = .error .outOfRange ∧ bankWrite s u b a v = .error .outOfRange

/-- The host port (44_bank.md R218): a step whose input is a host access makes that one access, reports its outcome, and
changes no register, buffer or phase; a failed access changes no element. -/
def Obligations.HostPort : Prop :=
  ∀ (s : State) (rest : List Input) (u : Byte) (b : BankName) (a : Nat),
    (s.inputs = .host (.read u b a) :: rest →
      step s =
        .next { s with
          inputs := rest
          hostOut := s.hostOut ++
            [match s.store u with
              | none => .failed .noSuchUnit
              | some d => if a < d.len b then .value (d.elem u b a) else .failed .outOfRange] }) ∧
    ∀ v, s.inputs = .host (.write u b a v) :: rest →
      match s.store u with
      | none => step s = .next { s with inputs := rest, hostOut := s.hostOut ++ [.failed .noSuchUnit] }
      | some d =>
        if a < d.len b then
          ∃ t, step s = .next t ∧
            t = { s with inputs := rest, hostOut := s.hostOut ++ [.written], stores := t.stores } ∧
            Stored s t u b a [match b with | .di | .co => if v.getLsbD 0 then 1 else 0 | .ir | .hr => v]
        else step s = .next { s with inputs := rest, hostOut := s.hostOut ++ [.failed .outOfRange] }

/-! Requests. Each runs against the unit id in `PDUBUF[0]`. The refusals make no element access, so they hold whatever
host accesses are scheduled; the accesses are stated for a command during which the host makes none. -/

/-- `RD_COILS` and `RD_DISCRETE` (45_request_exec.md R240, R241). -/
def Obligations.ReadBits : Prop :=
  ShortDiscarded 0x01 5 ∧ ShortDiscarded 0x02 5 ∧
    ∀ (s : State) (d : Store) (start qty : Word), s.store s.reqUnit = some d → ∀ (fc : Byte) (b : BankName) (i : Instr),
      (fc = 0x01 ∧ b = .co ∧ i = .rdCoils start qty) ∨ (fc = 0x02 ∧ b = .di ∧ i = .rdDiscrete start qty) →
      if d.len b = 0 then exec i s = .next (s.replied s.reqUnit [fc ||| 0x80, 1])
      else if qty.toNat < 1 ∨ 2000 < qty.toNat then exec i s = .next (s.replied s.reqUnit [fc ||| 0x80, 3])
      else if d.len b < start.toNat + qty.toNat then exec i s = .next (s.replied s.reqUnit [fc ||| 0x80, 2])
      else s.hostQ = [] →
        ∃ es data, es.length = qty.toNat ∧ Holds s s.reqUnit b start.toNat es ∧ PackedAs data es ∧
          exec i s = .next (s.replied s.reqUnit (fc :: BitVec.ofNat 8 ((qty.toNat + 7) / 8) :: data))

/-- `RD_HOLDING` and `RD_INPUT` (45_request_exec.md R242, R243). -/
def Obligations.ReadRegisters : Prop :=
  ShortDiscarded 0x03 5 ∧ ShortDiscarded 0x04 5 ∧
    ∀ (s : State) (d : Store) (start qty : Word), s.store s.reqUnit = some d → ∀ (fc : Byte) (b : BankName) (i : Instr),
      (fc = 0x03 ∧ b = .hr ∧ i = .rdHolding start qty) ∨ (fc = 0x04 ∧ b = .ir ∧ i = .rdInput start qty) →
      if d.len b = 0 then exec i s = .next (s.replied s.reqUnit [fc ||| 0x80, 1])
      else if qty.toNat < 1 ∨ 125 < qty.toNat then exec i s = .next (s.replied s.reqUnit [fc ||| 0x80, 3])
      else if d.len b < start.toNat + qty.toNat then exec i s = .next (s.replied s.reqUnit [fc ||| 0x80, 2])
      else s.hostQ = [] →
        ∃ es, es.length = qty.toNat ∧ Holds s s.reqUnit b start.toNat es ∧
          exec i s =
            .next (s.replied s.reqUnit
              (fc :: BitVec.ofNat 8 (2 * qty.toNat) :: es.flatMap fun w => [hi8 w, lo8 w]))

/-- `WR_COIL` (45_request_exec.md R247). -/
def Obligations.WriteCoil : Prop :=
  ShortDiscarded 0x05 5 ∧
    ∀ (s : State) (d : Store) (addr value : Word), s.store s.reqUnit = some d →
      if d.len .co = 0 then exec (.wrCoil addr value) s = .next (s.replied s.reqUnit [0x85, 1])
      else if value ≠ 0x0000 ∧ value ≠ 0xFF00 then
        exec (.wrCoil addr value) s = .next (s.replied s.reqUnit [0x85, 3])
      else if d.len .co < addr.toNat + 1 then exec (.wrCoil addr value) s = .next (s.replied s.reqUnit [0x85, 2])
      else s.hostQ = [] →
        ∃ t, exec (.wrCoil addr value) s = .next t ∧
          t = { s.replied s.reqUnit [0x05, hi8 addr, lo8 addr, hi8 value, lo8 value] with stores := t.stores } ∧
          Stored s t s.reqUnit .co addr.toNat [if value = 0xFF00 then 1 else 0]

/-- `WR_REG` (45_request_exec.md R248). -/
def Obligations.WriteRegister : Prop :=
  ShortDiscarded 0x06 5 ∧
    ∀ (s : State) (d : Store) (addr value : Word), s.store s.reqUnit = some d →
      if d.len .hr = 0 then exec (.wrReg addr value) s = .next (s.replied s.reqUnit [0x86, 1])
      else if d.len .hr < addr.toNat + 1 then exec (.wrReg addr value) s = .next (s.replied s.reqUnit [0x86, 2])
      else s.hostQ = [] →
        ∃ t, exec (.wrReg addr value) s = .next t ∧
          t = { s.replied s.reqUnit [0x06, hi8 addr, lo8 addr, hi8 value, lo8 value] with stores := t.stores } ∧
          Stored s t s.reqUnit .hr addr.toNat [value]

/-- `WR_COILS` (45_request_exec.md R249). -/
def Obligations.WriteCoils : Prop :=
  ShortDiscarded 0x0F 6 ∧
    ∀ (s : State) (d : Store) (start qty : Word) (c : Byte) (bytes : List Byte), s.store s.reqUnit = some d →
      let i := Instr.wrCoils start qty c bytes
      if d.len .co = 0 then exec i s = .next (s.replied s.reqUnit [0x8F, 1])
      else if qty.toNat < 1 ∨ 1968 < qty.toNat then exec i s = .next (s.replied s.reqUnit [0x8F, 3])
      else if c.toNat ≠ (qty.toNat + 7) / 8 ∨ bytes.length < c.toNat then
        exec i s = .next (s.replied s.reqUnit [0x8F, 3])
      else if d.len .co < start.toNat + qty.toNat then exec i s = .next (s.replied s.reqUnit [0x8F, 2])
      else s.hostQ = [] →
        ∃ t, exec i s = .next t ∧
          t = { s.replied s.reqUnit [0x0F, hi8 start, lo8 start, hi8 qty, lo8 qty] with stores := t.stores } ∧
          Stored s t s.reqUnit .co start.toNat
            ((List.range qty.toNat).map fun k => if (bytes.getD (k / 8) 0).getLsbD (k % 8) then 1 else 0)

/-- `WR_REGS` (45_request_exec.md R250). -/
def Obligations.WriteRegisters : Prop :=
  ShortDiscarded 0x10 6 ∧
    ∀ (s : State) (d : Store) (start qty : Word) (c : Byte) (bytes : List Byte), s.store s.reqUnit = some d →
      let i := Instr.wrRegs start qty c bytes
      if d.len .hr = 0 then exec i s = .next (s.replied s.reqUnit [0x90, 1])
      else if qty.toNat < 1 ∨ 123 < qty.toNat then exec i s = .next (s.replied s.reqUnit [0x90, 3])
      else if c.toNat ≠ 2 * qty.toNat ∨ bytes.length < c.toNat then exec i s = .next (s.replied s.reqUnit [0x90, 3])
      else if d.len .hr < start.toNat + qty.toNat then exec i s = .next (s.replied s.reqUnit [0x90, 2])
      else s.hostQ = [] →
        ∃ t, exec i s = .next t ∧
          t = { s.replied s.reqUnit [0x10, hi8 start, lo8 start, hi8 qty, lo8 qty] with stores := t.stores } ∧
          Stored s t s.reqUnit .hr start.toNat
            ((List.range qty.toNat).map fun k => u16be (bytes.getD (2 * k) 0) (bytes.getD (2 * k + 1) 0))

/-- `MASK_WR` (45_request_exec.md R251). -/
def Obligations.MaskWrite : Prop :=
  ShortDiscarded 0x16 7 ∧
    ∀ (s : State) (d : Store) (addr am om : Word), s.store s.reqUnit = some d →
      let i := Instr.maskWr addr am om
      if d.len .hr = 0 then exec i s = .next (s.replied s.reqUnit [0x96, 1])
      else if d.len .hr < addr.toNat + 1 then exec i s = .next (s.replied s.reqUnit [0x96, 2])
      else s.hostQ = [] →
        ∃ t cur, Holds s s.reqUnit .hr addr.toNat [cur] ∧ exec i s = .next t ∧
          t = { s.replied s.reqUnit [0x16, hi8 addr, lo8 addr, hi8 am, lo8 am, hi8 om, lo8 om] with
            stores := t.stores } ∧
          Stored s t s.reqUnit .hr addr.toNat [(cur &&& am) ||| (om &&& ~~~am)]

/-- `RW_REGS` (45_request_exec.md R252): the write, then the read of the written bank. -/
def Obligations.ReadWriteRegisters : Prop :=
  ShortDiscarded 0x17 10 ∧
    ∀ (s : State) (d : Store) (rs rq ws wq : Word) (c : Byte) (bytes : List Byte), s.store s.reqUnit = some d →
      let i := Instr.rwRegs rs rq ws wq c bytes
      if d.len .hr = 0 then exec i s = .next (s.replied s.reqUnit [0x97, 1])
      else if rq.toNat < 1 ∨ 125 < rq.toNat ∨ wq.toNat < 1 ∨ 121 < wq.toNat then
        exec i s = .next (s.replied s.reqUnit [0x97, 3])
      else if c.toNat ≠ 2 * wq.toNat ∨ bytes.length < c.toNat then exec i s = .next (s.replied s.reqUnit [0x97, 3])
      else if d.len .hr < rs.toNat + rq.toNat ∨ d.len .hr < ws.toNat + wq.toNat then
        exec i s = .next (s.replied s.reqUnit [0x97, 2])
      else s.hostQ = [] →
        ∃ t es, exec i s = .next t ∧ es.length = rq.toNat ∧ Holds t s.reqUnit .hr rs.toNat es ∧
          t = { s.replied s.reqUnit
              (0x17 :: BitVec.ofNat 8 (2 * rq.toNat) :: es.flatMap fun w => [hi8 w, lo8 w]) with
            stores := t.stores } ∧
          Stored s t s.reqUnit .hr ws.toNat
            ((List.range wq.toNat).map fun k => u16be (bytes.getD (2 * k) 0) (bytes.getD (2 * k + 1) 0))

/-- Unrecognized function codes (30_encoding.md R111, 45_request_exec.md R253): which they are; exception 1 whatever
follows the code, no bank access. -/
def Obligations.Unrecognized : Prop :=
  (∀ fc : Byte, isFunction fc = false ↔
      fc = 0x00 ∨ (0x07 ≤ fc.toNat ∧ fc.toNat ≤ 0x0E) ∨ (0x11 ≤ fc.toNat ∧ fc.toNat ≤ 0x15) ∨ 0x18 ≤ fc.toNat) ∧
    ∀ (s : State) (d : Store) (fc : Byte), s.store s.reqUnit = some d →
      exec (.unrecognized fc) s = .next (s.replied s.reqUnit [fc ||| 0x80, 1]) ∧
        ∀ rest, s.pdu.bytes = s.reqUnit :: fc :: rest → isFunction fc = false →
          exec .execReq s = .next (s.replied s.reqUnit [fc ||| 0x80, 1])

/-- `EXEC` and the address filter (45_request_exec.md R230, R231): a message without a function code and one for an
absent unit are discarded; a PDU too short for its function is discarded; every other message is the request it
decodes to, which ends `OK` with a reply message for the same unit. -/
def Obligations.ExecCommand : Prop :=
  (∀ s : State, s.pdu.bytes.length < 2 → exec .execReq s = .next (s.discarded .discardedFraming)) ∧
    (∀ (s : State) (i : Instr), i.layer = .wire → s.store s.reqUnit = none →
      exec i s = .next (s.discarded .discardedUnit)) ∧
    ∀ (s : State) (u fc : Byte) (rest : List Byte), s.pdu.bytes = u :: fc :: rest →
      (s.store u = none → exec .execReq s = .next (s.discarded .discardedUnit)) ∧
      ∀ d, s.store u = some d →
        match decodePdu (fc :: rest) with
        | .error _ => exec .execReq s = .next (s.discarded .discardedFraming)
        | .ok i =>
          exec .execReq s = exec i s ∧
            ∃ t r, exec i s = .next t ∧ t.pdu = s.pdu.write (u :: r) ∧ t.status = .ok ∧ t.sphase = .idle

/-- Taking an exception (60_exceptions.md R306, R312): a reply whose function code byte has bit 7 set is the exception
reply, its code is 1, 2 or 3, and the request has changed no bank and made no element access. It holds for every
schedule of host accesses: code 4 cannot arise. -/
def Obligations.ExceptionReplies : Prop :=
  ∀ (i : Instr) (s t : State), i.layer = .wire → exec i s = .next t → t.status = .ok →
    (t.pdu.bytes.getD 1 0).getLsbD 7 = true →
      ∃ c : Byte, (c = 1 ∨ c = 2 ∨ c = 3) ∧
        t.pdu.bytes = [s.reqUnit, (encode i).headD 0 ||| 0x80, c] ∧
        t = { s with pdu := t.pdu, status := .ok, sphase := .idle }

/-- The wire cannot write discrete inputs and input registers (10_state.md R34): only `BANK_WR`, the constructors of
datastores and the host change what is read there. -/
def Obligations.WireCannotWriteInputs : Prop :=
  ∀ (i : Instr) (s t : State), exec i s = .next t → i ≠ .bankWr → i ≠ .dsNew → i ≠ .dsNewDefault →
    ∀ (u : Byte) (b : BankName) (a : Nat), b = .di ∨ b = .ir → hostWrites s.hostQ u b a = false →
      bankRead t u b a = bankRead s u b a

/-! Frames, for all instructions. -/

/-- Memory: an element the instruction does not store to, and that no host access inside the command writes, reads as
before (44_bank.md R219, 45_request_exec.md R232). -/
def Obligations.MemoryFrame : Prop :=
  ∀ (i : Instr) (s t : State), exec i s = .next t →
    ∀ (u : Byte) (b : BankName) (a : Nat), storesTo i s u b a = false → hostWrites s.hostQ u b a = false →
      bankRead t u b a = bankRead s u b a

/-- Registers, buffers, internal state: a command changes only what its rule names (10_state.md R22, 30_encoding.md
R120). -/
def Obligations.RegisterFrame : Prop :=
  ∀ (i : Instr) (s t : State), exec i s = .next t → Keeps i s t

/-! The slave cycle. -/

/-- The slave cycle of each transport (45_request_exec.md R254, R255, R256): nothing with `RUN = 0`; decode, execute,
encode; a discard leaves no reply bytes, and what `TXBUF` then holds is not said. -/
def Obligations.SlaveCycle : Prop :=
  ∀ (s : State) (cmd dec enc : Instr),
    (cmd, dec, enc) ∈ [(.slaveRtu, .decRtu, .encRtu), (.slaveAscii, .decAscii, .encAscii),
      (Instr.slaveMbap, Instr.decMbap, Instr.encMbap)] →
    (s.run = false → exec cmd s = .next { s with tx := { s.tx with len := 0 }, status := .stopRequested }) ∧
    (s.run = true →
      ∃ s1, exec dec { s with sphase := .decoding } = .next s1 ∧
        if s1.status ≠ .ok then
          ∃ t, exec cmd s = .next t ∧ t = { s1 with tx := t.tx, freeCtr := t.freeCtr, sphase := .idle } ∧ t.tx.len = 0
        else
          ∃ s2, exec .execReq s1 = .next s2 ∧
            if s2.status ≠ .ok then
              ∃ t, exec cmd s = .next t ∧ t = { s2 with tx := t.tx, freeCtr := t.freeCtr, sphase := .idle } ∧
                t.tx.len = 0
            else
              ∃ s3, exec enc { s2 with sphase := .replying } = .next s3 ∧
                exec cmd s = .next { s3 with sphase := .idle, status := .ok })

/-- A slave cycle that ends `OK` has a reply frame in `TXBUF` around the message of 3 to 253 bytes left in `PDUBUF`; an
MBAP reply carries the transaction id of its request (42_frame_encode.md R175, 60_exceptions.md R327). -/
def Obligations.SlaveReplies : Prop :=
  ∀ (s t : State), s.wf = true → s.run = true → t.status = .ok →
    (exec .slaveRtu s = .next t ∨ exec .slaveAscii s = .next t ∨ exec .slaveMbap s = .next t →
      3 ≤ t.pdu.bytes.length ∧ t.pdu.bytes.length ≤ 253) ∧
    (exec .slaveRtu s = .next t →
      t.tx.bytes = t.pdu.bytes ++ [lo8 (crcSerial t.pdu.bytes), hi8 (crcSerial t.pdu.bytes)]) ∧
    (exec .slaveAscii s = .next t → t.tx.bytes = asciiFrame t.pdu.bytes) ∧
    (exec .slaveMbap s = .next t →
      t.tx.bytes =
        [s.rx.bytes.getD 0 0, s.rx.bytes.getD 1 0, 0, 0, 0, BitVec.ofNat 8 t.pdu.bytes.length] ++ t.pdu.bytes)

/-- A discard in a slave cycle leaves no reply bytes, no message, the phase `Idle`, every bank as it was and every
scheduled host access still to come (60_exceptions.md R307). -/
def Obligations.SlaveDiscards : Prop :=
  ∀ (s t : State) (cmd : Instr), cmd = .slaveRtu ∨ cmd = .slaveAscii ∨ cmd = .slaveMbap → exec cmd s = .next t →
    t.status.family = .discarded →
      t.tx.len = 0 ∧ t.pdu.len = 0 ∧ t.sphase = .idle ∧ t.stores = s.stores ∧ t.hostQ = s.hostQ

/-! The master. -/

/-- `NEXT_TXID` (46_master.md R271): the counter is incremented modulo 65536, then used. -/
def Obligations.NextTxidCommand : Prop :=
  ∀ s : State,
    let n : Word := BitVec.ofNat 16 ((s.txid.toNat + 1) % 65536)
    exec .nextTxid s = .next { s with txid := n, mtid := n, res := n, status := .ok }

/-- `REQ` (46_master.md R272, R273): busy and unknown functions change nothing but `STATUS`; each row's quantity checks,
request PDU and quantity register. That a failed check leaves `TXLEN` 0 too (60_exceptions.md R305, 46_master.md R292
(a)) is the model's reading, log entry 15. -/
def Obligations.ReqCommand : Prop :=
  ∀ s : State, s.data.wf = true →
    let a := [hi8 s.addr, lo8 s.addr]
    let q := [hi8 s.qty, lo8 s.qty]
    let n := s.data.len.toNat
    let n2 : List Byte := [BitVec.ofNat 8 (n / 256), BitVec.ofNat 8 (n % 256)]
    let ws := s.data.words.flatMap fun w => [hi8 w, lo8 w]
    if s.mphase = .sending then exec .req s = .next { s with status := .busy }
    else if isFunction s.fc = false then exec .req s = .next { s with status := .badCommand }
    else if s.fc = 0x01 ∨ s.fc = 0x02 then
      exec .req s = .next (reqEnds s [(s.qty.toNat, 2000)] (s.fc :: (a ++ q)) s)
    else if s.fc = 0x03 ∨ s.fc = 0x04 then
      exec .req s = .next (reqEnds s [(s.qty.toNat, 125)] (s.fc :: (a ++ q)) s)
    else if s.fc = 0x05 then
      exec .req s = .next (reqEnds s [] (0x05 :: (a ++ (if s.val.getLsbD 0 then [0xFF, 0x00] else [0x00, 0x00]))) s)
    else if s.fc = 0x06 then exec .req s = .next (reqEnds s [] (0x06 :: (a ++ [hi8 s.val, lo8 s.val])) s)
    else if s.fc = 0x0F then
      ∃ bits, PackedAs bits s.data.words ∧
        exec .req s =
          .next (reqEnds s [(n, 1968)] (0x0F :: (a ++ n2 ++ [BitVec.ofNat 8 ((n + 7) / 8)] ++ bits))
            { s with qty := BitVec.ofNat 16 n })
    else if s.fc = 0x10 then
      exec .req s =
        .next (reqEnds s [(n, 123)] (0x10 :: (a ++ n2 ++ [BitVec.ofNat 8 (2 * n)] ++ ws))
          { s with qty := BitVec.ofNat 16 n })
    else if s.fc = 0x16 then
      exec .req s =
        .next (reqEnds s [] (0x16 :: (a ++ [hi8 s.val, lo8 s.val] ++ [hi8 s.val2, lo8 s.val2])) s)
    else
      s.fc = 0x17 ∧
        exec .req s =
          .next (reqEnds s [(s.qty.toNat, 125), (n, 121)]
            (0x17 :: (a ++ q ++ [hi8 s.waddr, lo8 s.waddr] ++ n2 ++ [BitVec.ofNat 8 (2 * n)] ++ ws))
            { s with wqty := BitVec.ofNat 16 n })

/-- `MREQ_RTU`, `MREQ_ASCII`, `MREQ_MBAP` (46_master.md R285, R286, R287) in terms of what `REQ` leaves: a refusal
changes nothing, `TXLEN` included; a quantity error leaves no frame; otherwise the request message in the transport's
frame, on MBAP with the incremented transaction counter. -/
def Obligations.MreqCommands : Prop :=
  ∀ s : State, s.wf = true →
    ∃ r, exec .req s = .next r ∧
      let m := r.pdu.bytes
      let x := s.txid + 1
      if r.status = .busy ∨ r.status = .badCommand then
        r = { s with status := r.status } ∧ exec .mreqRtu s = .next r ∧ exec .mreqAscii s = .next r ∧
          exec .mreqMbap s = .next r
      else if r.status ≠ .ok then
        let t := { r with tx := { s.tx with len := 0 } }
        exec .mreqRtu s = .next t ∧ exec .mreqAscii s = .next t ∧ exec .mreqMbap s = .next t
      else
        exec .mreqRtu s =
            .next { r.built with tx := s.tx.write (m ++ [lo8 (crcSerial m), hi8 (crcSerial m)]) } ∧
          exec .mreqAscii s = .next { r with tx := s.tx.write (asciiFrame m) } ∧
          exec .mreqMbap s =
            .next { r with
              txid := x, mtid := x, res := x
              tx := s.tx.write ([hi8 x, lo8 x, 0, 0, 0, BitVec.ofNat 8 m.length] ++ m) }

/-- The master builds what the slave parses (46_master.md R292 (b)): the frame of a request is accepted by the decoder of
the same transport, which returns the request message; its PDU decodes to one of the ten functions with nothing
missing and the byte count its quantity requires. -/
def Obligations.MasterBuildsWhatSlaveParses : Prop :=
  ∀ (s t r : State) (rq dec : Instr), s.wf = true → r.wf = true →
    (rq, dec) ∈ [(.mreqRtu, .decRtu), (.mreqAscii, .decAscii), (Instr.mreqMbap, Instr.decMbap)] →
    exec rq s = .next t → t.status = .ok → r.rx.bytes = t.tx.bytes →
      ∃ r1, exec dec r = .next r1 ∧ r1.status = .ok ∧ r1.pdu.bytes = t.pdu.bytes ∧ r1.pdu.bytes.head? = some s.unit ∧
        ∃ i, decodePdu r1.pdu.bytes.tail = .ok i ∧ encode i = r1.pdu.bytes.tail ∧ isFunction ((encode i).headD 0) = true ∧
          match i with
          | .wrCoils _ q c bytes => c.toNat = (q.toNat + 7) / 8 ∧ bytes.length = c.toNat
          | .wrRegs _ q c bytes => c.toNat = 2 * q.toNat ∧ bytes.length = c.toNat
          | .rwRegs _ _ _ q c bytes => c.toNat = 2 * q.toNat ∧ bytes.length = c.toNat
          | _ => True

/-- Single flight and `RSP_RTU` (46_master.md R288, R279). What a context changed since the request leaves (`QTY` raised
above 2000, `FC` no function: log entries 11, 12) is the model's choice where R279 and R122 do not settle it. -/
def Obligations.RspRtuCommand : Prop :=
  ∀ s : State, s.wf = true →
    (s.mphase ≠ .sending → exec .rspRtu s = .next { s with status := .badCommand }) ∧
    (s.mphase = .sending →
      ∃ t, exec .rspRtu s = .next t ∧
        let f := s.rx.bytes
        let m := f.length
        let s0 := { s with pdu := { s.pdu with len := 0 } }
        if m = 0 then RspFailed s0 t .rxTimeout
        else if m < 5 then RspFailed s0 t .wrongMessageLen
        else if crcSerial (f.take (m - 2)) ≠ u16le (f.getD (m - 2) 0) (f.getD (m - 1) 0) then
          RspFailed s0.built t .wrongCrc
        else if f.getD 0 0 ≠ s.unit then RspFailed s0.built t .wrongResponseAddress
        else Judged s s.built t (f.take (m - 2)))

/-- Single flight and `RSP_ASCII` (46_master.md R289, R279): no search for the last ':'. A context changed since the
request: log entries 11, 12, as for `RSP_RTU`. -/
def Obligations.RspAsciiCommand : Prop :=
  ∀ s : State,
    (s.mphase ≠ .sending → exec .rspAscii s = .next { s with status := .badCommand }) ∧
    (s.mphase = .sending →
      ∃ t, exec .rspAscii s = .next t ∧
        let f := s.rx.bytes
        let m := f.length
        let j := (m - 3) / 2
        let b := hexdec ((f.drop 1).take (m - 3))
        let s0 := { s with pdu := { s.pdu with len := 0 } }
        if m = 0 then RspFailed s0 t .rxTimeout
        else if m < 11 then RspFailed s0 t .wrongMessageLen
        else if f.getD 0 0 ≠ 0x3A#8 then RspFailed s0 t .startCharNotFound
        else if f.getD (m - 2) 0 ≠ 0x0D#8 ∨ f.getD (m - 1) 0 ≠ 0x0A#8 then RspFailed s0 t .endCharsNotFound
        else if (((b.take (j - 1)).map BitVec.toNat).sum + (b.getD (j - 1) 0).toNat) % 256 ≠ 0 then
          RspFailed s0 t .wrongLrc
        else if b.getD 0 0 ≠ s.unit then RspFailed s0 t .wrongResponseAddress
        else Judged s s t (b.take (j - 1)))

/-- Single flight and `RSP_MBAP` (46_master.md R290, R279). A context changed since the request: log entries 11, 12, as
for `RSP_RTU`. -/
def Obligations.RspMbapCommand : Prop :=
  ∀ s : State,
    (s.mphase ≠ .sending → exec .rspMbap s = .next { s with status := .badCommand }) ∧
    (s.mphase = .sending →
      ∃ t, exec .rspMbap s = .next t ∧
        let f := s.rx.bytes
        let m := f.length
        let s0 := { s with pdu := { s.pdu with len := 0 } }
        if m = 0 then RspFailed s0 t .rxTimeout
        else if m < 9 then RspFailed s0 t .wrongMessageLen
        else if u16be (f.getD 0 0) (f.getD 1 0) ≠ s.mtid then RspFailed s0 t .wrongTransactionId
        else if ¬ (f.getD 2 0 = 0 ∧ f.getD 3 0 = 0) then RspFailed s0 t .wrongProtocolId
        else if (f.getD 4 0).toNat * 256 + (f.getD 5 0).toNat ≠ m - 6 then RspFailed s0 t .wrongMessageLen
        else if f.getD 6 0 ≠ s.unit then RspFailed s0 t .wrongResponseAddress
        else Judged s s t (f.drop 6))

/-- Loop-back (46_master.md R292 (c)): the frame a request built, served by the slave cycle of the same transport of a
block holding the unit, whose reply frame is given back for judging with the context unchanged, ends `OK` or with a
remote exception, never with a local error. -/
def Obligations.LoopBack : Prop :=
  ∀ (s t r r' : State) (b : ByteBuf) (rq sl rsp : Instr), s.wf = true → r.wf = true → b.wf = true →
    (rq, sl, rsp) ∈ [(.mreqRtu, .slaveRtu, .rspRtu), (.mreqAscii, .slaveAscii, .rspAscii),
      (Instr.mreqMbap, Instr.slaveMbap, Instr.rspMbap)] →
    exec rq s = .next t → t.status = .ok →
    r.run = true → r.rx.bytes = t.tx.bytes → r.store s.unit ≠ none → exec sl r = .next r' →
    b.bytes = r'.tx.bytes →
      r'.status = .ok ∧
        ∃ v, exec rsp { t with rx := b } = .next v ∧ (v.status = .ok ∨ v.status.family = .remote)

/-! Control, statuses, the whole machine. -/

/-- `START` and `STOP` (60_exceptions.md R316, R317): the run flag and `STATUS`, nothing else. -/
def Obligations.StartStop : Prop :=
  ∀ s : State,
    exec .start s = .next { s with run := true, status := .ok } ∧
      exec .stop s = .next { s with run := false, status := .ok }

/-- Mask write is not atomic (20_memory.md R63, 70_reset_and_hazards.md R352; the schedule is log entry 3): one
host write to the masked register that falls inside the command is seen by the mask write, or lost, or made after it,
by its place among the two accesses. -/
def Obligations.MaskWriteInterleaving : Prop :=
  ∀ (s : State) (addr am om cur w : Word) (k : Nat), bankRead s s.reqUnit .hr addr.toNat = .ok cur →
    s.hostQ = [⟨k, .write s.reqUnit .hr addr.toNat w⟩] →
      ∃ t, exec (.maskWr addr am om) s = .next t ∧
        bankRead t.hostFlush s.reqUnit .hr addr.toNat =
          .ok (match k with
            | 0 => (w &&& am) ||| (om &&& ~~~am)
            | 1 => (cur &&& am) ||| (om &&& ~~~am)
            | _ => w)

/-- Which command can end with which status (60_exceptions.md R327). -/
def Obligations.StatusMatrix : Prop :=
  ∀ (i : Instr) (s t : State), exec i s = .next t → t.status ∈ allowedStatuses i

/-- Reset (10_state.md R40, 70_reset_and_hazards.md R340, R341): a step whose input is the reset event leaves the stated
value in every register, buffer length, flag and phase, the open `TXID_RESET` in `TXID`, and no datastore. -/
def Obligations.ResetState : Prop :=
  ∀ (s : State) (rest : List Input), s.inputs = .reset :: rest →
    ∃ t, step s = .next t ∧ t.cmd = 0 ∧ t.status.code = 0 ∧ t.res = 0 ∧ t.fc = 0 ∧ t.unit = 0 ∧ t.bank = 0 ∧
      t.addr = 0 ∧ t.qty = 0 ∧ t.val = 0 ∧ t.val2 = 0 ∧ t.waddr = 0 ∧ t.wqty = 0 ∧ t.mtid = 0 ∧ t.proto = 0 ∧
      t.mlen = 0 ∧ t.len0 = 0 ∧ t.len1 = 0 ∧ t.len2 = 0 ∧ t.len3 = 0 ∧ t.rx.len = 0 ∧ t.tx.len = 0 ∧
      t.pdu.len = 0 ∧ t.data.len = 0 ∧ t.txid = Config.txidReset ∧ t.crcValid = false ∧ t.run = false ∧
      t.sphase = .idle ∧ t.mphase = .idle ∧ (∀ u, t.shape u = none) ∧ t.inputs = rest

/-- The state after reset meets the invariant. -/
def Obligations.ResetInv : Prop := State.reset.inv = true

/-- Every step keeps the invariant, from any state that meets it, reachable or not: buffers within capacity, memory in
its canonical form, a valid CRC table that is the table, `SPHASE` `Idle` and `MPHASE` one of its four values between
commands, no host access left over. -/
def Obligations.StepKeepsInv : Prop :=
  ∀ s t : State, s.inv = true → step s = .next t → t.inv = true

/-- Lifetime of datastores (44_bank.md R212): in every step but reset an existing datastore keeps its four lengths, a
datastore appears only by `DS_NEW` or `DS_NEW_DEFAULT`, for the unit in `UNIT`, and such a command, with no host access
inside it, changes no existing datastore. -/
def Obligations.DatastoreLifetime : Prop :=
  ∀ (s t : State), step s = .next t → (∀ rest, s.inputs ≠ .reset :: rest) → ∀ u : Byte,
    (s.shape u ≠ none → t.shape u = s.shape u) ∧
    (s.shape u = none → t.shape u ≠ none →
      u = s.unit ∧ ∃ i rest code during, s.inputs = i :: rest ∧ commandOf i = some (code, during) ∧
        (code = 0x10 ∨ code = 0x11)) ∧
    (s.shape u ≠ none → ∀ i rest code, s.inputs = i :: rest → commandOf i = some (code, []) →
      code = 0x10 ∨ code = 0x11 → t.store u = s.store u)

/-- A step runs the decoded instruction (10_state.md R22; the place of the host accesses is the model's, log entry 3): a
write to `CMD`, alone or with the host accesses that fall
inside the command, runs the instruction the code decodes to, which always ends in a next state; the host accesses
left are made after it. -/
def Obligations.StepRunsInstruction : Prop :=
  ∀ (s : State) (i : Input) (rest : List Input) (code : Byte) (during : List Slot) (ins : Instr),
    s.inputs = i :: rest →
    i = .command code during ∨ (during = [] ∧ ∃ v, i = .portWrite .cmd v ∧ code = v.setWidth 8) →
    overlapped rest = false → decode .command [code] = .ok ins →
      ∃ t, exec ins { s with cmd := code, hostQ := during, inputs := rest } = .next t ∧ step s = .next t.hostFlush

/-- The other steps: an idle block keeps all its state (60_exceptions.md R329); the stop signal clears `RUN` and does
nothing else (R315); a controller access to the port during a command, which the spec leaves undefined
(70_reset_and_hazards.md R350), stops the model by name. -/
def Obligations.StepOutside : Prop :=
  ∀ s : State,
    (s.inputs = [] → step s = .next s) ∧
    (∀ rest, s.inputs = .stop :: rest → step s = .next { s with inputs := rest, run := false }) ∧
    (∀ rest, s.inputs = .overlap :: rest → step s = .fault .portOverlap) ∧
    ∀ i code during rest, s.inputs = i :: .overlap :: rest → commandOf i = some (code, during) →
      step s = .fault .portOverlap

/-- Register access by the controller (60_exceptions.md R321, 30_encoding.md R122; the bits kept of a wider value are the
model's, log entry 9): writes to the read-only registers are ignored, `CMD` reads 0, a length above its buffer's
capacity is refused; a written register reads back the bits it has; reads change nothing but the record of what was
read. -/
def Obligations.PortAccess : Prop :=
  ∀ (s : State) (rest : List Input),
    (∀ (r : PortReg) (v : BitVec 32), r ∈ [PortReg.status, .res, .proto, .mlen, .txLen] →
      s.inputs = .portWrite r v :: rest → step s = .next { s with inputs := rest }) ∧
    (∀ (r : PortReg) (v : BitVec 32) (n : Nat), (r, n) ∈ [(PortReg.rxLen, 1024), (.pduLen, 1024), (.dataLen, 2000)] →
      s.inputs = .portWrite r v :: rest →
        ∃ t, step s = .next t ∧
          if n < v.toNat then t = { s with inputs := rest } else readPort t r = v) ∧
    (∀ (r : PortReg) (v : BitVec 32) (w : Nat),
      (r, w) ∈ [(PortReg.fc, 8), (.unit, 8), (.bank, 2), (.addr, 16), (.qty, 16), (.val, 16), (.val2, 16), (.waddr, 16),
        (.wqty, 16), (.mtid, 16), (.len0, 32), (.len1, 32), (.len2, 32), (.len3, 32)] →
      s.inputs = .portWrite r v :: rest →
        ∃ t, step s = .next t ∧ (readPort t r).toNat = v.toNat % 2 ^ w ∧ ∀ r', r' ≠ r → readPort t r' = readPort s r') ∧
    ∀ r : PortReg, s.inputs = .portRead r :: rest →
      step s = .next { s with inputs := rest, portOut := s.portOut ++ [readPort s r] } ∧ readPort s .cmd = 0
end

