-- ==== Sys2Proof/Laws/Assoc.lean ====
section
/-! SUPPORT. Laws of the sorted lists that hold datastores and bank elements: a read after a write, and the canonical form
a write keeps. -/

namespace Sys2Proof.Machine

variable {α : Type}

/-- A key reads back what was just put there. -/
@[simp] theorem assocGet_put_self (l : List (Nat × α)) (a : Nat) (v : α) :
    assocGet (assocPut l a v) a = some v := by
  induction l with
  | nil => simp [assocPut, assocGet]
  | cons x t ih =>
    simp only [assocPut]
    split
    · simp [assocGet]
    · split
      · simp [assocGet]
      · rename_i h; simp [assocGet, Ne.symm h, ih]

/-- Another key keeps what it held. -/
theorem assocGet_put_ne (l : List (Nat × α)) {a b : Nat} (v : α) (h : b ≠ a) :
    assocGet (assocPut l a v) b = assocGet l b := by
  induction l with
  | nil => simp [assocPut, assocGet, Ne.symm h]
  | cons x t ih =>
    simp only [assocPut]
    split
    · simp [assocGet, Ne.symm h]
    · split
      · rename_i hk; subst hk; simp [assocGet, Ne.symm h]
      · simp [assocGet, ih]

/-- What a list holds after a put: the new pair, or one it held before. -/
theorem mem_assocPut {l : List (Nat × α)} {a : Nat} {v : α} {x : Nat × α} (h : x ∈ assocPut l a v) :
    x = (a, v) ∨ x ∈ l := by
  induction l with
  | nil => simpa [assocPut] using h
  | cons y t ih =>
    simp only [assocPut] at h
    split at h
    · simpa using h
    · split at h
      · rcases List.mem_cons.1 h with h | h
        · exact .inl h
        · exact .inr (List.mem_cons_of_mem _ h)
      · rcases List.mem_cons.1 h with h | h
        · exact .inr (by simp [h])
        · rcases ih h with h | h
          · exact .inl h
          · exact .inr (List.mem_cons_of_mem _ h)

/-- A key that is found is listed with its value. -/
theorem assocGet_mem {l : List (Nat × α)} {a : Nat} {v : α} (h : assocGet l a = some v) : (a, v) ∈ l := by
  induction l with
  | nil => simp [assocGet] at h
  | cons y t ih =>
    simp only [assocGet] at h
    split at h
    · rename_i hk; obtain ⟨rfl⟩ := h; simp [← hk]
    · exact List.mem_cons_of_mem _ (ih h)

/-- The canonical form, one pair at a time: the first key is below the bound and below the next key. -/
theorem assocWf_cons (n : Nat) (x : Nat × α) (t : List (Nat × α)) :
    assocWf n (x :: t) = true ↔ x.1 < n ∧ (∀ y ∈ t.head?, x.1 < y.1) ∧ assocWf n t = true := by
  cases t with
  | nil => simp [assocWf]
  | cons y t =>
    simp only [assocWf, Bool.and_eq_true, decide_eq_true_eq, List.head?_cons, Option.mem_def, Option.some.injEq,
      forall_eq']
    constructor
    · rintro ⟨h1, h2⟩
      refine ⟨?_, h1, h2⟩
      have hy : y.1 < n := by
        cases t with
        | nil => simpa [assocWf] using h2
        | cons z t =>
          clear h1
          have : ∀ (l : List (Nat × α)) (y : Nat × α), assocWf n (y :: l) = true → y.1 < n := by
            intro l
            induction l with
            | nil => intro y h; simpa [assocWf] using h
            | cons z l ih =>
              intro y h
              simp only [assocWf, Bool.and_eq_true, decide_eq_true_eq] at h
              exact lt_trans h.1 (ih z h.2)
          exact this _ _ h2
      omega
    · rintro ⟨-, h1, h2⟩
      exact ⟨h1, h2⟩

/-- The first key of a list after a put is the put key or the old first key. -/
theorem head_assocPut {l : List (Nat × α)} {a : Nat} {v : α} {y : Nat × α} (h : y ∈ (assocPut l a v).head?) :
    y.1 = a ∨ ∃ z ∈ l.head?, y.1 = z.1 := by
  cases l with
  | nil => simp [assocPut] at h; exact .inl (by simp [← h])
  | cons x t =>
    simp only [assocPut] at h
    split at h
    · simp at h; exact .inl (by simp [← h])
    · split at h <;> simp at h
      · exact .inl (by simp [← h])
      · exact .inr ⟨x, by simp, by simp [← h]⟩

/-- A put below the bound keeps the canonical form. -/
theorem assocWf_put {n : Nat} {l : List (Nat × α)} {a : Nat} (v : α) (hl : assocWf n l = true) (ha : a < n) :
    assocWf n (assocPut l a v) = true := by
  induction l with
  | nil => simpa [assocPut, assocWf] using ha
  | cons x t ih =>
    obtain ⟨hx, hxt, ht⟩ := (assocWf_cons n x t).1 hl
    simp only [assocPut]
    split
    · rename_i hlt
      exact (assocWf_cons _ _ _).2 ⟨ha, by simpa using hlt, hl⟩
    · split
      · rename_i hk
        exact (assocWf_cons _ _ _).2 ⟨ha, by simpa [hk] using hxt, ht⟩
      · rename_i h1 h2
        refine (assocWf_cons _ _ _).2 ⟨hx, ?_, ih ht⟩
        intro y hy
        rcases head_assocPut hy with h | ⟨z, hz, h⟩
        · simp only [h]; omega
        · rw [h]; exact hxt z hz

end Sys2Proof.Machine
end

