-- ==== Sys2Proof/Laws/State.lean ====
section
/-! SUPPORT. The small lemmas of the named updates of the state: what each field holds after each update. They are true
by rfl and in the simp set, so that no later proof unfolds a record update. -/

namespace Sys2Proof.Machine

variable (s : State)

@[simp] theorem State.setStatus_cmd (e : Status) : (s.setStatus e).cmd = s.cmd := rfl
@[simp] theorem State.setStatus_status (e : Status) : (s.setStatus e).status = e := rfl
@[simp] theorem State.setStatus_res (e : Status) : (s.setStatus e).res = s.res := rfl
@[simp] theorem State.setStatus_fc (e : Status) : (s.setStatus e).fc = s.fc := rfl
@[simp] theorem State.setStatus_unit (e : Status) : (s.setStatus e).unit = s.unit := rfl
@[simp] theorem State.setStatus_bank (e : Status) : (s.setStatus e).bank = s.bank := rfl
@[simp] theorem State.setStatus_addr (e : Status) : (s.setStatus e).addr = s.addr := rfl
@[simp] theorem State.setStatus_qty (e : Status) : (s.setStatus e).qty = s.qty := rfl
@[simp] theorem State.setStatus_val (e : Status) : (s.setStatus e).val = s.val := rfl
@[simp] theorem State.setStatus_val2 (e : Status) : (s.setStatus e).val2 = s.val2 := rfl
@[simp] theorem State.setStatus_waddr (e : Status) : (s.setStatus e).waddr = s.waddr := rfl
@[simp] theorem State.setStatus_wqty (e : Status) : (s.setStatus e).wqty = s.wqty := rfl
@[simp] theorem State.setStatus_mtid (e : Status) : (s.setStatus e).mtid = s.mtid := rfl
@[simp] theorem State.setStatus_proto (e : Status) : (s.setStatus e).proto = s.proto := rfl
@[simp] theorem State.setStatus_mlen (e : Status) : (s.setStatus e).mlen = s.mlen := rfl
@[simp] theorem State.setStatus_len0 (e : Status) : (s.setStatus e).len0 = s.len0 := rfl
@[simp] theorem State.setStatus_len1 (e : Status) : (s.setStatus e).len1 = s.len1 := rfl
@[simp] theorem State.setStatus_len2 (e : Status) : (s.setStatus e).len2 = s.len2 := rfl
@[simp] theorem State.setStatus_len3 (e : Status) : (s.setStatus e).len3 = s.len3 := rfl
@[simp] theorem State.setStatus_rx (e : Status) : (s.setStatus e).rx = s.rx := rfl
@[simp] theorem State.setStatus_tx (e : Status) : (s.setStatus e).tx = s.tx := rfl
@[simp] theorem State.setStatus_pdu (e : Status) : (s.setStatus e).pdu = s.pdu := rfl
@[simp] theorem State.setStatus_data (e : Status) : (s.setStatus e).data = s.data := rfl
@[simp] theorem State.setStatus_txid (e : Status) : (s.setStatus e).txid = s.txid := rfl
@[simp] theorem State.setStatus_crcTab (e : Status) : (s.setStatus e).crcTab = s.crcTab := rfl
@[simp] theorem State.setStatus_crcValid (e : Status) : (s.setStatus e).crcValid = s.crcValid := rfl
@[simp] theorem State.setStatus_run (e : Status) : (s.setStatus e).run = s.run := rfl
@[simp] theorem State.setStatus_sphase (e : Status) : (s.setStatus e).sphase = s.sphase := rfl
@[simp] theorem State.setStatus_mphase (e : Status) : (s.setStatus e).mphase = s.mphase := rfl
@[simp] theorem State.setStatus_stores (e : Status) : (s.setStatus e).stores = s.stores := rfl
@[simp] theorem State.setStatus_inputs (e : Status) : (s.setStatus e).inputs = s.inputs := rfl
@[simp] theorem State.setStatus_hostQ (e : Status) : (s.setStatus e).hostQ = s.hostQ := rfl
@[simp] theorem State.setStatus_hostOut (e : Status) : (s.setStatus e).hostOut = s.hostOut := rfl
@[simp] theorem State.setStatus_portOut (e : Status) : (s.setStatus e).portOut = s.portOut := rfl
@[simp] theorem State.setStatus_freeCtr (e : Status) : (s.setStatus e).freeCtr = s.freeCtr := rfl

@[simp] theorem State.setRes_cmd (v : Word) : (s.setRes v).cmd = s.cmd := rfl
@[simp] theorem State.setRes_status (v : Word) : (s.setRes v).status = s.status := rfl
@[simp] theorem State.setRes_res (v : Word) : (s.setRes v).res = v := rfl
@[simp] theorem State.setRes_fc (v : Word) : (s.setRes v).fc = s.fc := rfl
@[simp] theorem State.setRes_unit (v : Word) : (s.setRes v).unit = s.unit := rfl
@[simp] theorem State.setRes_bank (v : Word) : (s.setRes v).bank = s.bank := rfl
@[simp] theorem State.setRes_addr (v : Word) : (s.setRes v).addr = s.addr := rfl
@[simp] theorem State.setRes_qty (v : Word) : (s.setRes v).qty = s.qty := rfl
@[simp] theorem State.setRes_val (v : Word) : (s.setRes v).val = s.val := rfl
@[simp] theorem State.setRes_val2 (v : Word) : (s.setRes v).val2 = s.val2 := rfl
@[simp] theorem State.setRes_waddr (v : Word) : (s.setRes v).waddr = s.waddr := rfl
@[simp] theorem State.setRes_wqty (v : Word) : (s.setRes v).wqty = s.wqty := rfl
@[simp] theorem State.setRes_mtid (v : Word) : (s.setRes v).mtid = s.mtid := rfl
@[simp] theorem State.setRes_proto (v : Word) : (s.setRes v).proto = s.proto := rfl
@[simp] theorem State.setRes_mlen (v : Word) : (s.setRes v).mlen = s.mlen := rfl
@[simp] theorem State.setRes_len0 (v : Word) : (s.setRes v).len0 = s.len0 := rfl
@[simp] theorem State.setRes_len1 (v : Word) : (s.setRes v).len1 = s.len1 := rfl
@[simp] theorem State.setRes_len2 (v : Word) : (s.setRes v).len2 = s.len2 := rfl
@[simp] theorem State.setRes_len3 (v : Word) : (s.setRes v).len3 = s.len3 := rfl
@[simp] theorem State.setRes_rx (v : Word) : (s.setRes v).rx = s.rx := rfl
@[simp] theorem State.setRes_tx (v : Word) : (s.setRes v).tx = s.tx := rfl
@[simp] theorem State.setRes_pdu (v : Word) : (s.setRes v).pdu = s.pdu := rfl
@[simp] theorem State.setRes_data (v : Word) : (s.setRes v).data = s.data := rfl
@[simp] theorem State.setRes_txid (v : Word) : (s.setRes v).txid = s.txid := rfl
@[simp] theorem State.setRes_crcTab (v : Word) : (s.setRes v).crcTab = s.crcTab := rfl
@[simp] theorem State.setRes_crcValid (v : Word) : (s.setRes v).crcValid = s.crcValid := rfl
@[simp] theorem State.setRes_run (v : Word) : (s.setRes v).run = s.run := rfl
@[simp] theorem State.setRes_sphase (v : Word) : (s.setRes v).sphase = s.sphase := rfl
@[simp] theorem State.setRes_mphase (v : Word) : (s.setRes v).mphase = s.mphase := rfl
@[simp] theorem State.setRes_stores (v : Word) : (s.setRes v).stores = s.stores := rfl
@[simp] theorem State.setRes_inputs (v : Word) : (s.setRes v).inputs = s.inputs := rfl
@[simp] theorem State.setRes_hostQ (v : Word) : (s.setRes v).hostQ = s.hostQ := rfl
@[simp] theorem State.setRes_hostOut (v : Word) : (s.setRes v).hostOut = s.hostOut := rfl
@[simp] theorem State.setRes_portOut (v : Word) : (s.setRes v).portOut = s.portOut := rfl
@[simp] theorem State.setRes_freeCtr (v : Word) : (s.setRes v).freeCtr = s.freeCtr := rfl

@[simp] theorem State.setPdu_cmd (b : ByteBuf) : (s.setPdu b).cmd = s.cmd := rfl
@[simp] theorem State.setPdu_status (b : ByteBuf) : (s.setPdu b).status = s.status := rfl
@[simp] theorem State.setPdu_res (b : ByteBuf) : (s.setPdu b).res = s.res := rfl
@[simp] theorem State.setPdu_fc (b : ByteBuf) : (s.setPdu b).fc = s.fc := rfl
@[simp] theorem State.setPdu_unit (b : ByteBuf) : (s.setPdu b).unit = s.unit := rfl
@[simp] theorem State.setPdu_bank (b : ByteBuf) : (s.setPdu b).bank = s.bank := rfl
@[simp] theorem State.setPdu_addr (b : ByteBuf) : (s.setPdu b).addr = s.addr := rfl
@[simp] theorem State.setPdu_qty (b : ByteBuf) : (s.setPdu b).qty = s.qty := rfl
@[simp] theorem State.setPdu_val (b : ByteBuf) : (s.setPdu b).val = s.val := rfl
@[simp] theorem State.setPdu_val2 (b : ByteBuf) : (s.setPdu b).val2 = s.val2 := rfl
@[simp] theorem State.setPdu_waddr (b : ByteBuf) : (s.setPdu b).waddr = s.waddr := rfl
@[simp] theorem State.setPdu_wqty (b : ByteBuf) : (s.setPdu b).wqty = s.wqty := rfl
@[simp] theorem State.setPdu_mtid (b : ByteBuf) : (s.setPdu b).mtid = s.mtid := rfl
@[simp] theorem State.setPdu_proto (b : ByteBuf) : (s.setPdu b).proto = s.proto := rfl
@[simp] theorem State.setPdu_mlen (b : ByteBuf) : (s.setPdu b).mlen = s.mlen := rfl
@[simp] theorem State.setPdu_len0 (b : ByteBuf) : (s.setPdu b).len0 = s.len0 := rfl
@[simp] theorem State.setPdu_len1 (b : ByteBuf) : (s.setPdu b).len1 = s.len1 := rfl
@[simp] theorem State.setPdu_len2 (b : ByteBuf) : (s.setPdu b).len2 = s.len2 := rfl
@[simp] theorem State.setPdu_len3 (b : ByteBuf) : (s.setPdu b).len3 = s.len3 := rfl
@[simp] theorem State.setPdu_rx (b : ByteBuf) : (s.setPdu b).rx = s.rx := rfl
@[simp] theorem State.setPdu_tx (b : ByteBuf) : (s.setPdu b).tx = s.tx := rfl
@[simp] theorem State.setPdu_pdu (b : ByteBuf) : (s.setPdu b).pdu = b := rfl
@[simp] theorem State.setPdu_data (b : ByteBuf) : (s.setPdu b).data = s.data := rfl
@[simp] theorem State.setPdu_txid (b : ByteBuf) : (s.setPdu b).txid = s.txid := rfl
@[simp] theorem State.setPdu_crcTab (b : ByteBuf) : (s.setPdu b).crcTab = s.crcTab := rfl
@[simp] theorem State.setPdu_crcValid (b : ByteBuf) : (s.setPdu b).crcValid = s.crcValid := rfl
@[simp] theorem State.setPdu_run (b : ByteBuf) : (s.setPdu b).run = s.run := rfl
@[simp] theorem State.setPdu_sphase (b : ByteBuf) : (s.setPdu b).sphase = s.sphase := rfl
@[simp] theorem State.setPdu_mphase (b : ByteBuf) : (s.setPdu b).mphase = s.mphase := rfl
@[simp] theorem State.setPdu_stores (b : ByteBuf) : (s.setPdu b).stores = s.stores := rfl
@[simp] theorem State.setPdu_inputs (b : ByteBuf) : (s.setPdu b).inputs = s.inputs := rfl
@[simp] theorem State.setPdu_hostQ (b : ByteBuf) : (s.setPdu b).hostQ = s.hostQ := rfl
@[simp] theorem State.setPdu_hostOut (b : ByteBuf) : (s.setPdu b).hostOut = s.hostOut := rfl
@[simp] theorem State.setPdu_portOut (b : ByteBuf) : (s.setPdu b).portOut = s.portOut := rfl
@[simp] theorem State.setPdu_freeCtr (b : ByteBuf) : (s.setPdu b).freeCtr = s.freeCtr := rfl

@[simp] theorem State.setTx_cmd (b : ByteBuf) : (s.setTx b).cmd = s.cmd := rfl
@[simp] theorem State.setTx_status (b : ByteBuf) : (s.setTx b).status = s.status := rfl
@[simp] theorem State.setTx_res (b : ByteBuf) : (s.setTx b).res = s.res := rfl
@[simp] theorem State.setTx_fc (b : ByteBuf) : (s.setTx b).fc = s.fc := rfl
@[simp] theorem State.setTx_unit (b : ByteBuf) : (s.setTx b).unit = s.unit := rfl
@[simp] theorem State.setTx_bank (b : ByteBuf) : (s.setTx b).bank = s.bank := rfl
@[simp] theorem State.setTx_addr (b : ByteBuf) : (s.setTx b).addr = s.addr := rfl
@[simp] theorem State.setTx_qty (b : ByteBuf) : (s.setTx b).qty = s.qty := rfl
@[simp] theorem State.setTx_val (b : ByteBuf) : (s.setTx b).val = s.val := rfl
@[simp] theorem State.setTx_val2 (b : ByteBuf) : (s.setTx b).val2 = s.val2 := rfl
@[simp] theorem State.setTx_waddr (b : ByteBuf) : (s.setTx b).waddr = s.waddr := rfl
@[simp] theorem State.setTx_wqty (b : ByteBuf) : (s.setTx b).wqty = s.wqty := rfl
@[simp] theorem State.setTx_mtid (b : ByteBuf) : (s.setTx b).mtid = s.mtid := rfl
@[simp] theorem State.setTx_proto (b : ByteBuf) : (s.setTx b).proto = s.proto := rfl
@[simp] theorem State.setTx_mlen (b : ByteBuf) : (s.setTx b).mlen = s.mlen := rfl
@[simp] theorem State.setTx_len0 (b : ByteBuf) : (s.setTx b).len0 = s.len0 := rfl
@[simp] theorem State.setTx_len1 (b : ByteBuf) : (s.setTx b).len1 = s.len1 := rfl
@[simp] theorem State.setTx_len2 (b : ByteBuf) : (s.setTx b).len2 = s.len2 := rfl
@[simp] theorem State.setTx_len3 (b : ByteBuf) : (s.setTx b).len3 = s.len3 := rfl
@[simp] theorem State.setTx_rx (b : ByteBuf) : (s.setTx b).rx = s.rx := rfl
@[simp] theorem State.setTx_tx (b : ByteBuf) : (s.setTx b).tx = b := rfl
@[simp] theorem State.setTx_pdu (b : ByteBuf) : (s.setTx b).pdu = s.pdu := rfl
@[simp] theorem State.setTx_data (b : ByteBuf) : (s.setTx b).data = s.data := rfl
@[simp] theorem State.setTx_txid (b : ByteBuf) : (s.setTx b).txid = s.txid := rfl
@[simp] theorem State.setTx_crcTab (b : ByteBuf) : (s.setTx b).crcTab = s.crcTab := rfl
@[simp] theorem State.setTx_crcValid (b : ByteBuf) : (s.setTx b).crcValid = s.crcValid := rfl
@[simp] theorem State.setTx_run (b : ByteBuf) : (s.setTx b).run = s.run := rfl
@[simp] theorem State.setTx_sphase (b : ByteBuf) : (s.setTx b).sphase = s.sphase := rfl
@[simp] theorem State.setTx_mphase (b : ByteBuf) : (s.setTx b).mphase = s.mphase := rfl
@[simp] theorem State.setTx_stores (b : ByteBuf) : (s.setTx b).stores = s.stores := rfl
@[simp] theorem State.setTx_inputs (b : ByteBuf) : (s.setTx b).inputs = s.inputs := rfl
@[simp] theorem State.setTx_hostQ (b : ByteBuf) : (s.setTx b).hostQ = s.hostQ := rfl
@[simp] theorem State.setTx_hostOut (b : ByteBuf) : (s.setTx b).hostOut = s.hostOut := rfl
@[simp] theorem State.setTx_portOut (b : ByteBuf) : (s.setTx b).portOut = s.portOut := rfl
@[simp] theorem State.setTx_freeCtr (b : ByteBuf) : (s.setTx b).freeCtr = s.freeCtr := rfl

@[simp] theorem State.setData_cmd (b : WordBuf) : (s.setData b).cmd = s.cmd := rfl
@[simp] theorem State.setData_status (b : WordBuf) : (s.setData b).status = s.status := rfl
@[simp] theorem State.setData_res (b : WordBuf) : (s.setData b).res = s.res := rfl
@[simp] theorem State.setData_fc (b : WordBuf) : (s.setData b).fc = s.fc := rfl
@[simp] theorem State.setData_unit (b : WordBuf) : (s.setData b).unit = s.unit := rfl
@[simp] theorem State.setData_bank (b : WordBuf) : (s.setData b).bank = s.bank := rfl
@[simp] theorem State.setData_addr (b : WordBuf) : (s.setData b).addr = s.addr := rfl
@[simp] theorem State.setData_qty (b : WordBuf) : (s.setData b).qty = s.qty := rfl
@[simp] theorem State.setData_val (b : WordBuf) : (s.setData b).val = s.val := rfl
@[simp] theorem State.setData_val2 (b : WordBuf) : (s.setData b).val2 = s.val2 := rfl
@[simp] theorem State.setData_waddr (b : WordBuf) : (s.setData b).waddr = s.waddr := rfl
@[simp] theorem State.setData_wqty (b : WordBuf) : (s.setData b).wqty = s.wqty := rfl
@[simp] theorem State.setData_mtid (b : WordBuf) : (s.setData b).mtid = s.mtid := rfl
@[simp] theorem State.setData_proto (b : WordBuf) : (s.setData b).proto = s.proto := rfl
@[simp] theorem State.setData_mlen (b : WordBuf) : (s.setData b).mlen = s.mlen := rfl
@[simp] theorem State.setData_len0 (b : WordBuf) : (s.setData b).len0 = s.len0 := rfl
@[simp] theorem State.setData_len1 (b : WordBuf) : (s.setData b).len1 = s.len1 := rfl
@[simp] theorem State.setData_len2 (b : WordBuf) : (s.setData b).len2 = s.len2 := rfl
@[simp] theorem State.setData_len3 (b : WordBuf) : (s.setData b).len3 = s.len3 := rfl
@[simp] theorem State.setData_rx (b : WordBuf) : (s.setData b).rx = s.rx := rfl
@[simp] theorem State.setData_tx (b : WordBuf) : (s.setData b).tx = s.tx := rfl
@[simp] theorem State.setData_pdu (b : WordBuf) : (s.setData b).pdu = s.pdu := rfl
@[simp] theorem State.setData_data (b : WordBuf) : (s.setData b).data = b := rfl
@[simp] theorem State.setData_txid (b : WordBuf) : (s.setData b).txid = s.txid := rfl
@[simp] theorem State.setData_crcTab (b : WordBuf) : (s.setData b).crcTab = s.crcTab := rfl
@[simp] theorem State.setData_crcValid (b : WordBuf) : (s.setData b).crcValid = s.crcValid := rfl
@[simp] theorem State.setData_run (b : WordBuf) : (s.setData b).run = s.run := rfl
@[simp] theorem State.setData_sphase (b : WordBuf) : (s.setData b).sphase = s.sphase := rfl
@[simp] theorem State.setData_mphase (b : WordBuf) : (s.setData b).mphase = s.mphase := rfl
@[simp] theorem State.setData_stores (b : WordBuf) : (s.setData b).stores = s.stores := rfl
@[simp] theorem State.setData_inputs (b : WordBuf) : (s.setData b).inputs = s.inputs := rfl
@[simp] theorem State.setData_hostQ (b : WordBuf) : (s.setData b).hostQ = s.hostQ := rfl
@[simp] theorem State.setData_hostOut (b : WordBuf) : (s.setData b).hostOut = s.hostOut := rfl
@[simp] theorem State.setData_portOut (b : WordBuf) : (s.setData b).portOut = s.portOut := rfl
@[simp] theorem State.setData_freeCtr (b : WordBuf) : (s.setData b).freeCtr = s.freeCtr := rfl

@[simp] theorem State.setSphase_cmd (p : SPhase) : (s.setSphase p).cmd = s.cmd := rfl
@[simp] theorem State.setSphase_status (p : SPhase) : (s.setSphase p).status = s.status := rfl
@[simp] theorem State.setSphase_res (p : SPhase) : (s.setSphase p).res = s.res := rfl
@[simp] theorem State.setSphase_fc (p : SPhase) : (s.setSphase p).fc = s.fc := rfl
@[simp] theorem State.setSphase_unit (p : SPhase) : (s.setSphase p).unit = s.unit := rfl
@[simp] theorem State.setSphase_bank (p : SPhase) : (s.setSphase p).bank = s.bank := rfl
@[simp] theorem State.setSphase_addr (p : SPhase) : (s.setSphase p).addr = s.addr := rfl
@[simp] theorem State.setSphase_qty (p : SPhase) : (s.setSphase p).qty = s.qty := rfl
@[simp] theorem State.setSphase_val (p : SPhase) : (s.setSphase p).val = s.val := rfl
@[simp] theorem State.setSphase_val2 (p : SPhase) : (s.setSphase p).val2 = s.val2 := rfl
@[simp] theorem State.setSphase_waddr (p : SPhase) : (s.setSphase p).waddr = s.waddr := rfl
@[simp] theorem State.setSphase_wqty (p : SPhase) : (s.setSphase p).wqty = s.wqty := rfl
@[simp] theorem State.setSphase_mtid (p : SPhase) : (s.setSphase p).mtid = s.mtid := rfl
@[simp] theorem State.setSphase_proto (p : SPhase) : (s.setSphase p).proto = s.proto := rfl
@[simp] theorem State.setSphase_mlen (p : SPhase) : (s.setSphase p).mlen = s.mlen := rfl
@[simp] theorem State.setSphase_len0 (p : SPhase) : (s.setSphase p).len0 = s.len0 := rfl
@[simp] theorem State.setSphase_len1 (p : SPhase) : (s.setSphase p).len1 = s.len1 := rfl
@[simp] theorem State.setSphase_len2 (p : SPhase) : (s.setSphase p).len2 = s.len2 := rfl
@[simp] theorem State.setSphase_len3 (p : SPhase) : (s.setSphase p).len3 = s.len3 := rfl
@[simp] theorem State.setSphase_rx (p : SPhase) : (s.setSphase p).rx = s.rx := rfl
@[simp] theorem State.setSphase_tx (p : SPhase) : (s.setSphase p).tx = s.tx := rfl
@[simp] theorem State.setSphase_pdu (p : SPhase) : (s.setSphase p).pdu = s.pdu := rfl
@[simp] theorem State.setSphase_data (p : SPhase) : (s.setSphase p).data = s.data := rfl
@[simp] theorem State.setSphase_txid (p : SPhase) : (s.setSphase p).txid = s.txid := rfl
@[simp] theorem State.setSphase_crcTab (p : SPhase) : (s.setSphase p).crcTab = s.crcTab := rfl
@[simp] theorem State.setSphase_crcValid (p : SPhase) : (s.setSphase p).crcValid = s.crcValid := rfl
@[simp] theorem State.setSphase_run (p : SPhase) : (s.setSphase p).run = s.run := rfl
@[simp] theorem State.setSphase_sphase (p : SPhase) : (s.setSphase p).sphase = p := rfl
@[simp] theorem State.setSphase_mphase (p : SPhase) : (s.setSphase p).mphase = s.mphase := rfl
@[simp] theorem State.setSphase_stores (p : SPhase) : (s.setSphase p).stores = s.stores := rfl
@[simp] theorem State.setSphase_inputs (p : SPhase) : (s.setSphase p).inputs = s.inputs := rfl
@[simp] theorem State.setSphase_hostQ (p : SPhase) : (s.setSphase p).hostQ = s.hostQ := rfl
@[simp] theorem State.setSphase_hostOut (p : SPhase) : (s.setSphase p).hostOut = s.hostOut := rfl
@[simp] theorem State.setSphase_portOut (p : SPhase) : (s.setSphase p).portOut = s.portOut := rfl
@[simp] theorem State.setSphase_freeCtr (p : SPhase) : (s.setSphase p).freeCtr = s.freeCtr := rfl

@[simp] theorem State.setMphase_cmd (p : MPhase) : (s.setMphase p).cmd = s.cmd := rfl
@[simp] theorem State.setMphase_status (p : MPhase) : (s.setMphase p).status = s.status := rfl
@[simp] theorem State.setMphase_res (p : MPhase) : (s.setMphase p).res = s.res := rfl
@[simp] theorem State.setMphase_fc (p : MPhase) : (s.setMphase p).fc = s.fc := rfl
@[simp] theorem State.setMphase_unit (p : MPhase) : (s.setMphase p).unit = s.unit := rfl
@[simp] theorem State.setMphase_bank (p : MPhase) : (s.setMphase p).bank = s.bank := rfl
@[simp] theorem State.setMphase_addr (p : MPhase) : (s.setMphase p).addr = s.addr := rfl
@[simp] theorem State.setMphase_qty (p : MPhase) : (s.setMphase p).qty = s.qty := rfl
@[simp] theorem State.setMphase_val (p : MPhase) : (s.setMphase p).val = s.val := rfl
@[simp] theorem State.setMphase_val2 (p : MPhase) : (s.setMphase p).val2 = s.val2 := rfl
@[simp] theorem State.setMphase_waddr (p : MPhase) : (s.setMphase p).waddr = s.waddr := rfl
@[simp] theorem State.setMphase_wqty (p : MPhase) : (s.setMphase p).wqty = s.wqty := rfl
@[simp] theorem State.setMphase_mtid (p : MPhase) : (s.setMphase p).mtid = s.mtid := rfl
@[simp] theorem State.setMphase_proto (p : MPhase) : (s.setMphase p).proto = s.proto := rfl
@[simp] theorem State.setMphase_mlen (p : MPhase) : (s.setMphase p).mlen = s.mlen := rfl
@[simp] theorem State.setMphase_len0 (p : MPhase) : (s.setMphase p).len0 = s.len0 := rfl
@[simp] theorem State.setMphase_len1 (p : MPhase) : (s.setMphase p).len1 = s.len1 := rfl
@[simp] theorem State.setMphase_len2 (p : MPhase) : (s.setMphase p).len2 = s.len2 := rfl
@[simp] theorem State.setMphase_len3 (p : MPhase) : (s.setMphase p).len3 = s.len3 := rfl
@[simp] theorem State.setMphase_rx (p : MPhase) : (s.setMphase p).rx = s.rx := rfl
@[simp] theorem State.setMphase_tx (p : MPhase) : (s.setMphase p).tx = s.tx := rfl
@[simp] theorem State.setMphase_pdu (p : MPhase) : (s.setMphase p).pdu = s.pdu := rfl
@[simp] theorem State.setMphase_data (p : MPhase) : (s.setMphase p).data = s.data := rfl
@[simp] theorem State.setMphase_txid (p : MPhase) : (s.setMphase p).txid = s.txid := rfl
@[simp] theorem State.setMphase_crcTab (p : MPhase) : (s.setMphase p).crcTab = s.crcTab := rfl
@[simp] theorem State.setMphase_crcValid (p : MPhase) : (s.setMphase p).crcValid = s.crcValid := rfl
@[simp] theorem State.setMphase_run (p : MPhase) : (s.setMphase p).run = s.run := rfl
@[simp] theorem State.setMphase_sphase (p : MPhase) : (s.setMphase p).sphase = s.sphase := rfl
@[simp] theorem State.setMphase_mphase (p : MPhase) : (s.setMphase p).mphase = p := rfl
@[simp] theorem State.setMphase_stores (p : MPhase) : (s.setMphase p).stores = s.stores := rfl
@[simp] theorem State.setMphase_inputs (p : MPhase) : (s.setMphase p).inputs = s.inputs := rfl
@[simp] theorem State.setMphase_hostQ (p : MPhase) : (s.setMphase p).hostQ = s.hostQ := rfl
@[simp] theorem State.setMphase_hostOut (p : MPhase) : (s.setMphase p).hostOut = s.hostOut := rfl
@[simp] theorem State.setMphase_portOut (p : MPhase) : (s.setMphase p).portOut = s.portOut := rfl
@[simp] theorem State.setMphase_freeCtr (p : MPhase) : (s.setMphase p).freeCtr = s.freeCtr := rfl

@[simp] theorem State.setRun_cmd (r : Bool) : (s.setRun r).cmd = s.cmd := rfl
@[simp] theorem State.setRun_status (r : Bool) : (s.setRun r).status = s.status := rfl
@[simp] theorem State.setRun_res (r : Bool) : (s.setRun r).res = s.res := rfl
@[simp] theorem State.setRun_fc (r : Bool) : (s.setRun r).fc = s.fc := rfl
@[simp] theorem State.setRun_unit (r : Bool) : (s.setRun r).unit = s.unit := rfl
@[simp] theorem State.setRun_bank (r : Bool) : (s.setRun r).bank = s.bank := rfl
@[simp] theorem State.setRun_addr (r : Bool) : (s.setRun r).addr = s.addr := rfl
@[simp] theorem State.setRun_qty (r : Bool) : (s.setRun r).qty = s.qty := rfl
@[simp] theorem State.setRun_val (r : Bool) : (s.setRun r).val = s.val := rfl
@[simp] theorem State.setRun_val2 (r : Bool) : (s.setRun r).val2 = s.val2 := rfl
@[simp] theorem State.setRun_waddr (r : Bool) : (s.setRun r).waddr = s.waddr := rfl
@[simp] theorem State.setRun_wqty (r : Bool) : (s.setRun r).wqty = s.wqty := rfl
@[simp] theorem State.setRun_mtid (r : Bool) : (s.setRun r).mtid = s.mtid := rfl
@[simp] theorem State.setRun_proto (r : Bool) : (s.setRun r).proto = s.proto := rfl
@[simp] theorem State.setRun_mlen (r : Bool) : (s.setRun r).mlen = s.mlen := rfl
@[simp] theorem State.setRun_len0 (r : Bool) : (s.setRun r).len0 = s.len0 := rfl
@[simp] theorem State.setRun_len1 (r : Bool) : (s.setRun r).len1 = s.len1 := rfl
@[simp] theorem State.setRun_len2 (r : Bool) : (s.setRun r).len2 = s.len2 := rfl
@[simp] theorem State.setRun_len3 (r : Bool) : (s.setRun r).len3 = s.len3 := rfl
@[simp] theorem State.setRun_rx (r : Bool) : (s.setRun r).rx = s.rx := rfl
@[simp] theorem State.setRun_tx (r : Bool) : (s.setRun r).tx = s.tx := rfl
@[simp] theorem State.setRun_pdu (r : Bool) : (s.setRun r).pdu = s.pdu := rfl
@[simp] theorem State.setRun_data (r : Bool) : (s.setRun r).data = s.data := rfl
@[simp] theorem State.setRun_txid (r : Bool) : (s.setRun r).txid = s.txid := rfl
@[simp] theorem State.setRun_crcTab (r : Bool) : (s.setRun r).crcTab = s.crcTab := rfl
@[simp] theorem State.setRun_crcValid (r : Bool) : (s.setRun r).crcValid = s.crcValid := rfl
@[simp] theorem State.setRun_run (r : Bool) : (s.setRun r).run = r := rfl
@[simp] theorem State.setRun_sphase (r : Bool) : (s.setRun r).sphase = s.sphase := rfl
@[simp] theorem State.setRun_mphase (r : Bool) : (s.setRun r).mphase = s.mphase := rfl
@[simp] theorem State.setRun_stores (r : Bool) : (s.setRun r).stores = s.stores := rfl
@[simp] theorem State.setRun_inputs (r : Bool) : (s.setRun r).inputs = s.inputs := rfl
@[simp] theorem State.setRun_hostQ (r : Bool) : (s.setRun r).hostQ = s.hostQ := rfl
@[simp] theorem State.setRun_hostOut (r : Bool) : (s.setRun r).hostOut = s.hostOut := rfl
@[simp] theorem State.setRun_portOut (r : Bool) : (s.setRun r).portOut = s.portOut := rfl
@[simp] theorem State.setRun_freeCtr (r : Bool) : (s.setRun r).freeCtr = s.freeCtr := rfl

@[simp] theorem State.setStores_cmd (d : List (Nat × Store)) : (s.setStores d).cmd = s.cmd := rfl
@[simp] theorem State.setStores_status (d : List (Nat × Store)) : (s.setStores d).status = s.status := rfl
@[simp] theorem State.setStores_res (d : List (Nat × Store)) : (s.setStores d).res = s.res := rfl
@[simp] theorem State.setStores_fc (d : List (Nat × Store)) : (s.setStores d).fc = s.fc := rfl
@[simp] theorem State.setStores_unit (d : List (Nat × Store)) : (s.setStores d).unit = s.unit := rfl
@[simp] theorem State.setStores_bank (d : List (Nat × Store)) : (s.setStores d).bank = s.bank := rfl
@[simp] theorem State.setStores_addr (d : List (Nat × Store)) : (s.setStores d).addr = s.addr := rfl
@[simp] theorem State.setStores_qty (d : List (Nat × Store)) : (s.setStores d).qty = s.qty := rfl
@[simp] theorem State.setStores_val (d : List (Nat × Store)) : (s.setStores d).val = s.val := rfl
@[simp] theorem State.setStores_val2 (d : List (Nat × Store)) : (s.setStores d).val2 = s.val2 := rfl
@[simp] theorem State.setStores_waddr (d : List (Nat × Store)) : (s.setStores d).waddr = s.waddr := rfl
@[simp] theorem State.setStores_wqty (d : List (Nat × Store)) : (s.setStores d).wqty = s.wqty := rfl
@[simp] theorem State.setStores_mtid (d : List (Nat × Store)) : (s.setStores d).mtid = s.mtid := rfl
@[simp] theorem State.setStores_proto (d : List (Nat × Store)) : (s.setStores d).proto = s.proto := rfl
@[simp] theorem State.setStores_mlen (d : List (Nat × Store)) : (s.setStores d).mlen = s.mlen := rfl
@[simp] theorem State.setStores_len0 (d : List (Nat × Store)) : (s.setStores d).len0 = s.len0 := rfl
@[simp] theorem State.setStores_len1 (d : List (Nat × Store)) : (s.setStores d).len1 = s.len1 := rfl
@[simp] theorem State.setStores_len2 (d : List (Nat × Store)) : (s.setStores d).len2 = s.len2 := rfl
@[simp] theorem State.setStores_len3 (d : List (Nat × Store)) : (s.setStores d).len3 = s.len3 := rfl
@[simp] theorem State.setStores_rx (d : List (Nat × Store)) : (s.setStores d).rx = s.rx := rfl
@[simp] theorem State.setStores_tx (d : List (Nat × Store)) : (s.setStores d).tx = s.tx := rfl
@[simp] theorem State.setStores_pdu (d : List (Nat × Store)) : (s.setStores d).pdu = s.pdu := rfl
@[simp] theorem State.setStores_data (d : List (Nat × Store)) : (s.setStores d).data = s.data := rfl
@[simp] theorem State.setStores_txid (d : List (Nat × Store)) : (s.setStores d).txid = s.txid := rfl
@[simp] theorem State.setStores_crcTab (d : List (Nat × Store)) : (s.setStores d).crcTab = s.crcTab := rfl
@[simp] theorem State.setStores_crcValid (d : List (Nat × Store)) : (s.setStores d).crcValid = s.crcValid := rfl
@[simp] theorem State.setStores_run (d : List (Nat × Store)) : (s.setStores d).run = s.run := rfl
@[simp] theorem State.setStores_sphase (d : List (Nat × Store)) : (s.setStores d).sphase = s.sphase := rfl
@[simp] theorem State.setStores_mphase (d : List (Nat × Store)) : (s.setStores d).mphase = s.mphase := rfl
@[simp] theorem State.setStores_stores (d : List (Nat × Store)) : (s.setStores d).stores = d := rfl
@[simp] theorem State.setStores_inputs (d : List (Nat × Store)) : (s.setStores d).inputs = s.inputs := rfl
@[simp] theorem State.setStores_hostQ (d : List (Nat × Store)) : (s.setStores d).hostQ = s.hostQ := rfl
@[simp] theorem State.setStores_hostOut (d : List (Nat × Store)) : (s.setStores d).hostOut = s.hostOut := rfl
@[simp] theorem State.setStores_portOut (d : List (Nat × Store)) : (s.setStores d).portOut = s.portOut := rfl
@[simp] theorem State.setStores_freeCtr (d : List (Nat × Store)) : (s.setStores d).freeCtr = s.freeCtr := rfl

@[simp] theorem State.setMtid_cmd (t : Word) : (s.setMtid t).cmd = s.cmd := rfl
@[simp] theorem State.setMtid_status (t : Word) : (s.setMtid t).status = s.status := rfl
@[simp] theorem State.setMtid_res (t : Word) : (s.setMtid t).res = s.res := rfl
@[simp] theorem State.setMtid_fc (t : Word) : (s.setMtid t).fc = s.fc := rfl
@[simp] theorem State.setMtid_unit (t : Word) : (s.setMtid t).unit = s.unit := rfl
@[simp] theorem State.setMtid_bank (t : Word) : (s.setMtid t).bank = s.bank := rfl
@[simp] theorem State.setMtid_addr (t : Word) : (s.setMtid t).addr = s.addr := rfl
@[simp] theorem State.setMtid_qty (t : Word) : (s.setMtid t).qty = s.qty := rfl
@[simp] theorem State.setMtid_val (t : Word) : (s.setMtid t).val = s.val := rfl
@[simp] theorem State.setMtid_val2 (t : Word) : (s.setMtid t).val2 = s.val2 := rfl
@[simp] theorem State.setMtid_waddr (t : Word) : (s.setMtid t).waddr = s.waddr := rfl
@[simp] theorem State.setMtid_wqty (t : Word) : (s.setMtid t).wqty = s.wqty := rfl
@[simp] theorem State.setMtid_mtid (t : Word) : (s.setMtid t).mtid = t := rfl
@[simp] theorem State.setMtid_proto (t : Word) : (s.setMtid t).proto = s.proto := rfl
@[simp] theorem State.setMtid_mlen (t : Word) : (s.setMtid t).mlen = s.mlen := rfl
@[simp] theorem State.setMtid_len0 (t : Word) : (s.setMtid t).len0 = s.len0 := rfl
@[simp] theorem State.setMtid_len1 (t : Word) : (s.setMtid t).len1 = s.len1 := rfl
@[simp] theorem State.setMtid_len2 (t : Word) : (s.setMtid t).len2 = s.len2 := rfl
@[simp] theorem State.setMtid_len3 (t : Word) : (s.setMtid t).len3 = s.len3 := rfl
@[simp] theorem State.setMtid_rx (t : Word) : (s.setMtid t).rx = s.rx := rfl
@[simp] theorem State.setMtid_tx (t : Word) : (s.setMtid t).tx = s.tx := rfl
@[simp] theorem State.setMtid_pdu (t : Word) : (s.setMtid t).pdu = s.pdu := rfl
@[simp] theorem State.setMtid_data (t : Word) : (s.setMtid t).data = s.data := rfl
@[simp] theorem State.setMtid_txid (t : Word) : (s.setMtid t).txid = s.txid := rfl
@[simp] theorem State.setMtid_crcTab (t : Word) : (s.setMtid t).crcTab = s.crcTab := rfl
@[simp] theorem State.setMtid_crcValid (t : Word) : (s.setMtid t).crcValid = s.crcValid := rfl
@[simp] theorem State.setMtid_run (t : Word) : (s.setMtid t).run = s.run := rfl
@[simp] theorem State.setMtid_sphase (t : Word) : (s.setMtid t).sphase = s.sphase := rfl
@[simp] theorem State.setMtid_mphase (t : Word) : (s.setMtid t).mphase = s.mphase := rfl
@[simp] theorem State.setMtid_stores (t : Word) : (s.setMtid t).stores = s.stores := rfl
@[simp] theorem State.setMtid_inputs (t : Word) : (s.setMtid t).inputs = s.inputs := rfl
@[simp] theorem State.setMtid_hostQ (t : Word) : (s.setMtid t).hostQ = s.hostQ := rfl
@[simp] theorem State.setMtid_hostOut (t : Word) : (s.setMtid t).hostOut = s.hostOut := rfl
@[simp] theorem State.setMtid_portOut (t : Word) : (s.setMtid t).portOut = s.portOut := rfl
@[simp] theorem State.setMtid_freeCtr (t : Word) : (s.setMtid t).freeCtr = s.freeCtr := rfl

@[simp] theorem State.setTxid_cmd (t : Word) : (s.setTxid t).cmd = s.cmd := rfl
@[simp] theorem State.setTxid_status (t : Word) : (s.setTxid t).status = s.status := rfl
@[simp] theorem State.setTxid_res (t : Word) : (s.setTxid t).res = s.res := rfl
@[simp] theorem State.setTxid_fc (t : Word) : (s.setTxid t).fc = s.fc := rfl
@[simp] theorem State.setTxid_unit (t : Word) : (s.setTxid t).unit = s.unit := rfl
@[simp] theorem State.setTxid_bank (t : Word) : (s.setTxid t).bank = s.bank := rfl
@[simp] theorem State.setTxid_addr (t : Word) : (s.setTxid t).addr = s.addr := rfl
@[simp] theorem State.setTxid_qty (t : Word) : (s.setTxid t).qty = s.qty := rfl
@[simp] theorem State.setTxid_val (t : Word) : (s.setTxid t).val = s.val := rfl
@[simp] theorem State.setTxid_val2 (t : Word) : (s.setTxid t).val2 = s.val2 := rfl
@[simp] theorem State.setTxid_waddr (t : Word) : (s.setTxid t).waddr = s.waddr := rfl
@[simp] theorem State.setTxid_wqty (t : Word) : (s.setTxid t).wqty = s.wqty := rfl
@[simp] theorem State.setTxid_mtid (t : Word) : (s.setTxid t).mtid = s.mtid := rfl
@[simp] theorem State.setTxid_proto (t : Word) : (s.setTxid t).proto = s.proto := rfl
@[simp] theorem State.setTxid_mlen (t : Word) : (s.setTxid t).mlen = s.mlen := rfl
@[simp] theorem State.setTxid_len0 (t : Word) : (s.setTxid t).len0 = s.len0 := rfl
@[simp] theorem State.setTxid_len1 (t : Word) : (s.setTxid t).len1 = s.len1 := rfl
@[simp] theorem State.setTxid_len2 (t : Word) : (s.setTxid t).len2 = s.len2 := rfl
@[simp] theorem State.setTxid_len3 (t : Word) : (s.setTxid t).len3 = s.len3 := rfl
@[simp] theorem State.setTxid_rx (t : Word) : (s.setTxid t).rx = s.rx := rfl
@[simp] theorem State.setTxid_tx (t : Word) : (s.setTxid t).tx = s.tx := rfl
@[simp] theorem State.setTxid_pdu (t : Word) : (s.setTxid t).pdu = s.pdu := rfl
@[simp] theorem State.setTxid_data (t : Word) : (s.setTxid t).data = s.data := rfl
@[simp] theorem State.setTxid_txid (t : Word) : (s.setTxid t).txid = t := rfl
@[simp] theorem State.setTxid_crcTab (t : Word) : (s.setTxid t).crcTab = s.crcTab := rfl
@[simp] theorem State.setTxid_crcValid (t : Word) : (s.setTxid t).crcValid = s.crcValid := rfl
@[simp] theorem State.setTxid_run (t : Word) : (s.setTxid t).run = s.run := rfl
@[simp] theorem State.setTxid_sphase (t : Word) : (s.setTxid t).sphase = s.sphase := rfl
@[simp] theorem State.setTxid_mphase (t : Word) : (s.setTxid t).mphase = s.mphase := rfl
@[simp] theorem State.setTxid_stores (t : Word) : (s.setTxid t).stores = s.stores := rfl
@[simp] theorem State.setTxid_inputs (t : Word) : (s.setTxid t).inputs = s.inputs := rfl
@[simp] theorem State.setTxid_hostQ (t : Word) : (s.setTxid t).hostQ = s.hostQ := rfl
@[simp] theorem State.setTxid_hostOut (t : Word) : (s.setTxid t).hostOut = s.hostOut := rfl
@[simp] theorem State.setTxid_portOut (t : Word) : (s.setTxid t).portOut = s.portOut := rfl
@[simp] theorem State.setTxid_freeCtr (t : Word) : (s.setTxid t).freeCtr = s.freeCtr := rfl

@[simp] theorem State.setCrc_cmd (tab : List Word) (v : Bool) : (s.setCrc tab v).cmd = s.cmd := rfl
@[simp] theorem State.setCrc_status (tab : List Word) (v : Bool) : (s.setCrc tab v).status = s.status := rfl
@[simp] theorem State.setCrc_res (tab : List Word) (v : Bool) : (s.setCrc tab v).res = s.res := rfl
@[simp] theorem State.setCrc_fc (tab : List Word) (v : Bool) : (s.setCrc tab v).fc = s.fc := rfl
@[simp] theorem State.setCrc_unit (tab : List Word) (v : Bool) : (s.setCrc tab v).unit = s.unit := rfl
@[simp] theorem State.setCrc_bank (tab : List Word) (v : Bool) : (s.setCrc tab v).bank = s.bank := rfl
@[simp] theorem State.setCrc_addr (tab : List Word) (v : Bool) : (s.setCrc tab v).addr = s.addr := rfl
@[simp] theorem State.setCrc_qty (tab : List Word) (v : Bool) : (s.setCrc tab v).qty = s.qty := rfl
@[simp] theorem State.setCrc_val (tab : List Word) (v : Bool) : (s.setCrc tab v).val = s.val := rfl
@[simp] theorem State.setCrc_val2 (tab : List Word) (v : Bool) : (s.setCrc tab v).val2 = s.val2 := rfl
@[simp] theorem State.setCrc_waddr (tab : List Word) (v : Bool) : (s.setCrc tab v).waddr = s.waddr := rfl
@[simp] theorem State.setCrc_wqty (tab : List Word) (v : Bool) : (s.setCrc tab v).wqty = s.wqty := rfl
@[simp] theorem State.setCrc_mtid (tab : List Word) (v : Bool) : (s.setCrc tab v).mtid = s.mtid := rfl
@[simp] theorem State.setCrc_proto (tab : List Word) (v : Bool) : (s.setCrc tab v).proto = s.proto := rfl
@[simp] theorem State.setCrc_mlen (tab : List Word) (v : Bool) : (s.setCrc tab v).mlen = s.mlen := rfl
@[simp] theorem State.setCrc_len0 (tab : List Word) (v : Bool) : (s.setCrc tab v).len0 = s.len0 := rfl
@[simp] theorem State.setCrc_len1 (tab : List Word) (v : Bool) : (s.setCrc tab v).len1 = s.len1 := rfl
@[simp] theorem State.setCrc_len2 (tab : List Word) (v : Bool) : (s.setCrc tab v).len2 = s.len2 := rfl
@[simp] theorem State.setCrc_len3 (tab : List Word) (v : Bool) : (s.setCrc tab v).len3 = s.len3 := rfl
@[simp] theorem State.setCrc_rx (tab : List Word) (v : Bool) : (s.setCrc tab v).rx = s.rx := rfl
@[simp] theorem State.setCrc_tx (tab : List Word) (v : Bool) : (s.setCrc tab v).tx = s.tx := rfl
@[simp] theorem State.setCrc_pdu (tab : List Word) (v : Bool) : (s.setCrc tab v).pdu = s.pdu := rfl
@[simp] theorem State.setCrc_data (tab : List Word) (v : Bool) : (s.setCrc tab v).data = s.data := rfl
@[simp] theorem State.setCrc_txid (tab : List Word) (v : Bool) : (s.setCrc tab v).txid = s.txid := rfl
@[simp] theorem State.setCrc_crcTab (tab : List Word) (v : Bool) : (s.setCrc tab v).crcTab = tab := rfl
@[simp] theorem State.setCrc_crcValid (tab : List Word) (v : Bool) : (s.setCrc tab v).crcValid = v := rfl
@[simp] theorem State.setCrc_run (tab : List Word) (v : Bool) : (s.setCrc tab v).run = s.run := rfl
@[simp] theorem State.setCrc_sphase (tab : List Word) (v : Bool) : (s.setCrc tab v).sphase = s.sphase := rfl
@[simp] theorem State.setCrc_mphase (tab : List Word) (v : Bool) : (s.setCrc tab v).mphase = s.mphase := rfl
@[simp] theorem State.setCrc_stores (tab : List Word) (v : Bool) : (s.setCrc tab v).stores = s.stores := rfl
@[simp] theorem State.setCrc_inputs (tab : List Word) (v : Bool) : (s.setCrc tab v).inputs = s.inputs := rfl
@[simp] theorem State.setCrc_hostQ (tab : List Word) (v : Bool) : (s.setCrc tab v).hostQ = s.hostQ := rfl
@[simp] theorem State.setCrc_hostOut (tab : List Word) (v : Bool) : (s.setCrc tab v).hostOut = s.hostOut := rfl
@[simp] theorem State.setCrc_portOut (tab : List Word) (v : Bool) : (s.setCrc tab v).portOut = s.portOut := rfl
@[simp] theorem State.setCrc_freeCtr (tab : List Word) (v : Bool) : (s.setCrc tab v).freeCtr = s.freeCtr := rfl

@[simp] theorem State.loseTx_cmd : (s.loseTx).cmd = s.cmd := rfl
@[simp] theorem State.loseTx_status : (s.loseTx).status = s.status := rfl
@[simp] theorem State.loseTx_res : (s.loseTx).res = s.res := rfl
@[simp] theorem State.loseTx_fc : (s.loseTx).fc = s.fc := rfl
@[simp] theorem State.loseTx_unit : (s.loseTx).unit = s.unit := rfl
@[simp] theorem State.loseTx_bank : (s.loseTx).bank = s.bank := rfl
@[simp] theorem State.loseTx_addr : (s.loseTx).addr = s.addr := rfl
@[simp] theorem State.loseTx_qty : (s.loseTx).qty = s.qty := rfl
@[simp] theorem State.loseTx_val : (s.loseTx).val = s.val := rfl
@[simp] theorem State.loseTx_val2 : (s.loseTx).val2 = s.val2 := rfl
@[simp] theorem State.loseTx_waddr : (s.loseTx).waddr = s.waddr := rfl
@[simp] theorem State.loseTx_wqty : (s.loseTx).wqty = s.wqty := rfl
@[simp] theorem State.loseTx_mtid : (s.loseTx).mtid = s.mtid := rfl
@[simp] theorem State.loseTx_proto : (s.loseTx).proto = s.proto := rfl
@[simp] theorem State.loseTx_mlen : (s.loseTx).mlen = s.mlen := rfl
@[simp] theorem State.loseTx_len0 : (s.loseTx).len0 = s.len0 := rfl
@[simp] theorem State.loseTx_len1 : (s.loseTx).len1 = s.len1 := rfl
@[simp] theorem State.loseTx_len2 : (s.loseTx).len2 = s.len2 := rfl
@[simp] theorem State.loseTx_len3 : (s.loseTx).len3 = s.len3 := rfl
@[simp] theorem State.loseTx_rx : (s.loseTx).rx = s.rx := rfl
@[simp] theorem State.loseTx_pdu : (s.loseTx).pdu = s.pdu := rfl
@[simp] theorem State.loseTx_data : (s.loseTx).data = s.data := rfl
@[simp] theorem State.loseTx_txid : (s.loseTx).txid = s.txid := rfl
@[simp] theorem State.loseTx_crcTab : (s.loseTx).crcTab = s.crcTab := rfl
@[simp] theorem State.loseTx_crcValid : (s.loseTx).crcValid = s.crcValid := rfl
@[simp] theorem State.loseTx_run : (s.loseTx).run = s.run := rfl
@[simp] theorem State.loseTx_sphase : (s.loseTx).sphase = s.sphase := rfl
@[simp] theorem State.loseTx_mphase : (s.loseTx).mphase = s.mphase := rfl
@[simp] theorem State.loseTx_stores : (s.loseTx).stores = s.stores := rfl
@[simp] theorem State.loseTx_inputs : (s.loseTx).inputs = s.inputs := rfl
@[simp] theorem State.loseTx_hostQ : (s.loseTx).hostQ = s.hostQ := rfl
@[simp] theorem State.loseTx_hostOut : (s.loseTx).hostOut = s.hostOut := rfl
@[simp] theorem State.loseTx_portOut : (s.loseTx).portOut = s.portOut := rfl
@[simp] theorem State.loseTx_freeCtr : (s.loseTx).freeCtr = s.freeCtr + 1 := rfl

@[simp] theorem State.loseData_cmd : (s.loseData).cmd = s.cmd := rfl
@[simp] theorem State.loseData_status : (s.loseData).status = s.status := rfl
@[simp] theorem State.loseData_res : (s.loseData).res = s.res := rfl
@[simp] theorem State.loseData_fc : (s.loseData).fc = s.fc := rfl
@[simp] theorem State.loseData_unit : (s.loseData).unit = s.unit := rfl
@[simp] theorem State.loseData_bank : (s.loseData).bank = s.bank := rfl
@[simp] theorem State.loseData_addr : (s.loseData).addr = s.addr := rfl
@[simp] theorem State.loseData_qty : (s.loseData).qty = s.qty := rfl
@[simp] theorem State.loseData_val : (s.loseData).val = s.val := rfl
@[simp] theorem State.loseData_val2 : (s.loseData).val2 = s.val2 := rfl
@[simp] theorem State.loseData_waddr : (s.loseData).waddr = s.waddr := rfl
@[simp] theorem State.loseData_wqty : (s.loseData).wqty = s.wqty := rfl
@[simp] theorem State.loseData_mtid : (s.loseData).mtid = s.mtid := rfl
@[simp] theorem State.loseData_proto : (s.loseData).proto = s.proto := rfl
@[simp] theorem State.loseData_mlen : (s.loseData).mlen = s.mlen := rfl
@[simp] theorem State.loseData_len0 : (s.loseData).len0 = s.len0 := rfl
@[simp] theorem State.loseData_len1 : (s.loseData).len1 = s.len1 := rfl
@[simp] theorem State.loseData_len2 : (s.loseData).len2 = s.len2 := rfl
@[simp] theorem State.loseData_len3 : (s.loseData).len3 = s.len3 := rfl
@[simp] theorem State.loseData_rx : (s.loseData).rx = s.rx := rfl
@[simp] theorem State.loseData_tx : (s.loseData).tx = s.tx := rfl
@[simp] theorem State.loseData_pdu : (s.loseData).pdu = s.pdu := rfl
@[simp] theorem State.loseData_txid : (s.loseData).txid = s.txid := rfl
@[simp] theorem State.loseData_crcTab : (s.loseData).crcTab = s.crcTab := rfl
@[simp] theorem State.loseData_crcValid : (s.loseData).crcValid = s.crcValid := rfl
@[simp] theorem State.loseData_run : (s.loseData).run = s.run := rfl
@[simp] theorem State.loseData_sphase : (s.loseData).sphase = s.sphase := rfl
@[simp] theorem State.loseData_mphase : (s.loseData).mphase = s.mphase := rfl
@[simp] theorem State.loseData_stores : (s.loseData).stores = s.stores := rfl
@[simp] theorem State.loseData_inputs : (s.loseData).inputs = s.inputs := rfl
@[simp] theorem State.loseData_hostQ : (s.loseData).hostQ = s.hostQ := rfl
@[simp] theorem State.loseData_hostOut : (s.loseData).hostOut = s.hostOut := rfl
@[simp] theorem State.loseData_portOut : (s.loseData).portOut = s.portOut := rfl
@[simp] theorem State.loseData_freeCtr : (s.loseData).freeCtr = s.freeCtr + 1 := rfl

@[simp] theorem State.loseTx_tx_len : s.loseTx.tx.len = 0 := rfl
@[simp] theorem State.loseData_data_len : s.loseData.data.len = 0 := rfl

/-- A local error is the write of `STATUS` alone (60_exceptions.md R305). -/
@[simp] theorem State.raiseLocal_eq (e : Status) : s.raiseLocal e = s.setStatus e := rfl

/-- What a discard writes (60_exceptions.md R307). -/
@[simp] theorem State.discard_eq (e : Status) :
    s.discard e = ((s.setPdu s.pdu.clear).setSphase .idle).setStatus e := rfl

@[simp] theorem ByteBuf.clear_len (b : ByteBuf) : b.clear.len = 0 := rfl
@[simp] theorem ByteBuf.clear_cells (b : ByteBuf) : b.clear.cells = b.cells := rfl

end Sys2Proof.Machine
end

