-- ==== Sys2Proof/Laws/Buffers.lean ====
section
/-! SUPPORT. Laws of the buffers and of the lengths of what is written to them. -/

namespace Sys2Proof.Machine

/-- The capacity of the byte buffers as a number: it is reducible, so `simp only` may use this under an `if`. -/
theorem bufMax_eq : Config.bufMax = 1024 := rfl

/-- The capacity of `DATABUF` as a number. -/
theorem dataMax_eq : Config.dataMax = 2000 := rfl

/-- What it means for a byte buffer to be well-formed. -/
theorem ByteBuf.wf_iff (b : ByteBuf) : b.wf = true ↔ b.cells.length = 1024 ∧ b.len.toNat ≤ 1024 := by
  simp only [ByteBuf.wf, Bool.and_eq_true, decide_eq_true_eq]

/-- What it means for `DATABUF` to be well-formed. -/
theorem WordBuf.wf_iff (b : WordBuf) : b.wf = true ↔ b.cells.length = 2000 ∧ b.len.toNat ≤ 2000 := by
  simp only [WordBuf.wf, Bool.and_eq_true, decide_eq_true_eq]

/-- A byte sequence that fits the length register is read back from the buffer it was written to. -/
theorem ByteBuf.bytes_write (b : ByteBuf) (m : List Byte) (h : m.length < 2048) : (b.write m).bytes = m := by
  have : m.length % 2048 = m.length := Nat.mod_eq_of_lt h
  simp [ByteBuf.write, ByteBuf.bytes, overlay, this]

/-- The same for `DATABUF`. -/
theorem WordBuf.words_write (b : WordBuf) (m : List Word) (h : m.length < 2048) : (b.write m).words = m := by
  have : m.length % 2048 = m.length := Nat.mod_eq_of_lt h
  simp [WordBuf.write, WordBuf.words, overlay, this]

/-- Writing a sequence within capacity keeps a buffer well-formed. -/
theorem ByteBuf.wf_write {b : ByteBuf} (hb : b.wf = true) {m : List Byte} (h : m.length ≤ Config.bufMax) :
    (b.write m).wf = true := by
  simp only [ByteBuf.wf_iff, Config.bufMax] at *
  have : m.length % 2048 = m.length := Nat.mod_eq_of_lt (by omega)
  simp [ByteBuf.write, overlay, this]
  omega

/-- The same for `DATABUF`. -/
theorem WordBuf.wf_write {b : WordBuf} (hb : b.wf = true) {m : List Word} (h : m.length ≤ Config.dataMax) :
    (b.write m).wf = true := by
  simp only [WordBuf.wf_iff, Config.dataMax] at *
  have : m.length % 2048 = m.length := Nat.mod_eq_of_lt (by omega)
  simp [WordBuf.write, overlay, this]
  omega

/-- In a well-formed buffer the valid bytes are as many as the length register says. -/
theorem ByteBuf.length_bytes {b : ByteBuf} (hb : b.wf = true) : b.bytes.length = b.len.toNat := by
  rw [ByteBuf.wf_iff] at hb
  simp [ByteBuf.bytes]; omega

/-- In a well-formed `DATABUF` the valid entries are as many as `DATALEN` says. -/
theorem WordBuf.length_words {b : WordBuf} (hb : b.wf = true) : b.words.length = b.len.toNat := by
  rw [WordBuf.wf_iff] at hb
  simp [WordBuf.words]; omega

/-- A well-formed buffer holds at most its capacity. -/
theorem ByteBuf.bytes_le {b : ByteBuf} (hb : b.wf = true) : b.bytes.length ≤ Config.bufMax := by
  rw [ByteBuf.length_bytes hb]; exact ((ByteBuf.wf_iff b).1 hb).2

/-- Setting the length to 0 keeps a buffer well-formed. -/
theorem ByteBuf.wf_clear {b : ByteBuf} (hb : b.wf = true) : b.clear.wf = true := by
  rw [ByteBuf.wf_iff] at *
  exact ⟨hb.1, by simp [ByteBuf.clear]⟩

/-- The undefined contents fill the buffer. -/
theorem length_freeBytes (n : Nat) : (freeBytes n).length = Config.bufMax := by
  unfold freeBytes; rw [List.length_map]; rw [List.length_range]

/-- The unspecified contents fill `DATABUF`. -/
theorem length_freeWords (n : Nat) : (freeWords n).length = Config.dataMax := by
  unfold freeWords; rw [List.length_map]; rw [List.length_range]

/-- The lost `TXBUF` is well-formed. -/
theorem State.loseTx_tx_wf (s : State) : s.loseTx.tx.wf = true := by
  rw [ByteBuf.wf_iff]; exact ⟨length_freeBytes _, by simp⟩

/-- The lost `DATABUF` is well-formed. -/
theorem State.loseData_data_wf (s : State) : s.loseData.data.wf = true := by
  rw [WordBuf.wf_iff]; exact ⟨length_freeWords _, by simp⟩

/-- A read after a write of a prefix: the written part. -/
theorem overlay_take {α : Type} (new old : List α) : (overlay new old).take new.length = new := by
  simp [overlay]

/-- A write of a prefix leaves what lies beyond it. -/
theorem overlay_drop {α : Type} (new old : List α) : (overlay new old).drop new.length = old.drop new.length := by
  simp [overlay]

@[simp] theorem length_pack (e : List Word) : (pack e).length = ceil8 e.length := by simp [pack]

@[simp] theorem length_unpack (d : List Byte) (q : Nat) : (unpack d q).length = q := by simp [unpack]

@[simp] theorem length_be (w : Word) : (be w).length = 2 := rfl

@[simp] theorem length_words (e : List Word) : (words e).length = 2 * e.length := by
  simp [words, List.length_flatMap]; omega

theorem length_unwords : ∀ b : List Byte, (unwords b).length = b.length / 2
  | [] => by simp [unwords]
  | [_] => by simp [unwords]
  | _ :: _ :: t => by simp [unwords, length_unwords t]; omega

@[simp] theorem length_hexenc (b : List Byte) : (hexenc b).length = 2 * b.length := by
  simp [hexenc, List.length_flatMap]; omega

theorem length_hexdec : ∀ t : List Byte, (hexdec t).length = t.length / 2
  | [] => by simp [hexdec]
  | [_] => by simp [hexdec]
  | _ :: _ :: t => by simp [hexdec, length_hexdec t]; omega

@[simp] theorem length_mbapHeader (t : Word) (m : List Byte) : (mbapHeader t m).length = 7 := rfl

theorem length_rtuFrame (c : Word) (m : List Byte) : (rtuFrame c m).length = m.length + 2 := by simp [rtuFrame]

theorem length_asciiFrame (m : List Byte) : (asciiFrame m).length = 2 * m.length + 5 := by
  simp [asciiFrame]; omega

theorem length_mbapFrame (t : Word) (m : List Byte) (h : 1 ≤ m.length) : (mbapFrame t m).length = m.length + 6 := by
  simp [mbapFrame]; omega

/-- `u16be` as a number (00_scope.md R9). -/
theorem u16be_toNat (a b : Byte) : (u16be a b).toNat = a.toNat * 256 + b.toNat := by
  have h : (u16be a b).toNat = a.toNat <<< 8 ||| b.toNat := BitVec.toNat_append a b
  rw [h, Nat.shiftLeft_eq, ← Nat.shiftLeft_eq, ← Nat.shiftLeft_add_eq_or_of_lt b.isLt, Nat.shiftLeft_eq]

/-- `hi8` as a number (00_scope.md R9). -/
theorem hi8_toNat (w : Word) : (hi8 w).toNat = w.toNat / 256 := by
  simp [hi8, BitVec.extractLsb'_toNat, Nat.shiftRight_eq_div_pow]; omega

/-- `lo8` as a number (00_scope.md R9). -/
theorem lo8_toNat (w : Word) : (lo8 w).toNat = w.toNat % 256 := by
  simp [lo8, BitVec.extractLsb'_toNat]

/-- The two bytes of a word are the word again (00_scope.md R9). -/
@[simp] theorem u16be_hi_lo (w : Word) : u16be (hi8 w) (lo8 w) = w := by
  apply BitVec.eq_of_toNat_eq; rw [u16be_toNat, hi8_toNat, lo8_toNat]; omega

/-- The same bytes read low byte first. -/
@[simp] theorem u16le_lo_hi (w : Word) : u16le (lo8 w) (hi8 w) = w := u16be_hi_lo w

end Sys2Proof.Machine
end

