-- ==== Sys2Proof/Laws/Banks.lean ====
section
/-! SUPPORT. Laws of the banks: read after write, the canonical form every memory operation keeps, and for each shared
bank operation everything it can do to a state. -/

namespace Sys2Proof.Machine

/-! One datastore. -/

/-- A write changes no length. -/
@[simp] theorem Store.lens_put (d : Store) (b : BankName) (a : Nat) (v : Word) : (d.put b a v).lens = d.lens := by
  cases b <;> rfl

@[simp] theorem Store.len_put (d : Store) (b c : BankName) (a : Nat) (v : Word) : (d.put b a v).len c = d.len c := by
  cases b <;> cases c <;> rfl

/-- What a bank of one-bit or 16-bit elements makes of a value (44_bank.md R215, R214). -/
def narrow (b : BankName) (v : Word) : Word :=
  match b with
  | .di | .co => (v.setWidth 1).setWidth 16
  | .ir | .hr => v

/-- An element reads as it was written (44_bank.md R219). -/
@[simp] theorem Store.elem_put_self (d : Store) (u : Byte) (b : BankName) (a : Nat) (v : Word) :
    (d.put b a v).elem u b a = narrow b v := by
  cases b <;> simp [Store.elem, Store.written, Store.put, narrow]

/-- A write leaves every other element alone (44_bank.md R219). -/
theorem Store.elem_put_ne (d : Store) (u : Byte) {b c : BankName} {a i : Nat} (v : Word) (h : c ≠ b ∨ i ≠ a) :
    (d.put b a v).elem u c i = d.elem u c i := by
  cases b <;> cases c <;> simp_all [Store.elem, Store.written, Store.put, assocGet_put_ne]

/-- A write below the length keeps a datastore well-formed. -/
theorem Store.wf_put {d : Store} (hd : d.wf = true) {b : BankName} {a : Nat} (v : Word) (ha : a < d.len b) :
    (d.put b a v).wf = true := by
  simp only [Store.wf, BankMem.wf, Bool.and_eq_true, decide_eq_true_eq] at hd ⊢
  cases b <;> simp only [Store.len] at ha <;> simp [Store.put, hd, assocWf_put _ _ ha]

/-! The datastores of all units. -/

/-- What the canonical form of memory says. -/
theorem memoryWf_iff (m : List (Nat × Store)) :
    memoryWf m = true ↔ assocWf 248 m = true ∧ ∀ x ∈ m, x.2.wf = true := by
  simp only [memoryWf, Bool.and_eq_true, List.all_eq_true]

/-- Memory right after reset has the canonical form. -/
theorem memoryWf_nil : memoryWf [] = true := rfl

/-- A datastore of a well-formed memory is well-formed. -/
theorem memoryWf_get {m : List (Nat × Store)} (hm : memoryWf m = true) {k : Nat} {d : Store}
    (h : assocGet m k = some d) : d.wf = true :=
  ((memoryWf_iff m).1 hm).2 _ (assocGet_mem h)

/-- The keys of a canonical list are below its bound. -/
theorem assocWf_lt {α : Type} {n : Nat} {l : List (Nat × α)} (h : assocWf n l = true) {x : Nat × α} (hx : x ∈ l) :
    x.1 < n := by
  induction l with
  | nil => simp at hx
  | cons y t ih =>
    obtain ⟨h1, -, h3⟩ := (assocWf_cons n y t).1 h
    rcases List.mem_cons.1 hx with rfl | hx
    · exact h1
    · exact ih h3 hx

/-- Putting a well-formed datastore at a unit id below 248 keeps the canonical form. -/
theorem memoryWf_put {m : List (Nat × Store)} (hm : memoryWf m = true) {k : Nat} (hk : k < 248) {d : Store}
    (hd : d.wf = true) : memoryWf (assocPut m k d) = true := by
  rw [memoryWf_iff] at *
  refine ⟨assocWf_put _ hm.1 hk, fun x hx => ?_⟩
  rcases mem_assocPut hx with rfl | hx
  · exact hd
  · exact hm.2 x hx

/-! One element access. -/

/-- Everything an element write can do (44_bank.md R215): it names a present unit and an address below the length, and
stores into that element alone. -/
theorem bankWrite_ok {s t : State} {u : Byte} {b : BankName} {a : Nat} {v : Word}
    (h : bankWrite s u b a v = .ok t) :
    ∃ d, s.store u = some d ∧ a < d.len b ∧ t = s.setStores (assocPut s.stores u.toNat (d.put b a v)) := by
  simp only [bankWrite] at h
  split at h
  · cases h
  · split at h
    · cases h; exact ⟨_, ‹_›, ‹_›, rfl⟩
    · cases h

/-- An element write keeps the canonical form. -/
theorem bankWrite_wf {s t : State} {u : Byte} {b : BankName} {a : Nat} {v : Word}
    (h : bankWrite s u b a v = .ok t) (hm : memoryWf s.stores = true) : memoryWf t.stores = true := by
  obtain ⟨d, hd, ha, rfl⟩ := bankWrite_ok h
  have hk : u.toNat < 248 := assocWf_lt ((memoryWf_iff _).1 hm).1 (assocGet_mem hd)
  exact memoryWf_put hm hk (Store.wf_put (memoryWf_get hm hd) v ha)

/-- An element write changes no length and creates no datastore. -/
theorem bankWrite_shape {s t : State} {u : Byte} {b : BankName} {a : Nat} {v : Word}
    (h : bankWrite s u b a v = .ok t) (w : Byte) : t.shape w = s.shape w := by
  obtain ⟨d, hd, -, rfl⟩ := bankWrite_ok h
  by_cases hw : w.toNat = u.toNat
  · have : w = u := BitVec.eq_of_toNat_eq hw
    subst this
    simp [State.shape, State.store] at *
    simp [hd]
  · simp [State.shape, State.store, assocGet_put_ne _ _ hw]

/-- The element written reads back (44_bank.md R219). -/
theorem bankRead_bankWrite_self {s t : State} {u : Byte} {b : BankName} {a : Nat} {v : Word}
    (h : bankWrite s u b a v = .ok t) : bankRead t u b a = .ok (narrow b v) := by
  obtain ⟨d, hd, ha, rfl⟩ := bankWrite_ok h
  simp [bankRead, State.store, ha]

/-- Every other element reads as before (44_bank.md R219). -/
theorem bankRead_bankWrite_ne {s t : State} {u : Byte} {b : BankName} {a : Nat} {v : Word}
    (h : bankWrite s u b a v = .ok t) {w : Byte} {c : BankName} {i : Nat} (hne : w ≠ u ∨ c ≠ b ∨ i ≠ a) :
    bankRead t w c i = bankRead s w c i := by
  obtain ⟨d, hd, ha, rfl⟩ := bankWrite_ok h
  by_cases hw : w = u
  · subst hw
    have hne : c ≠ b ∨ i ≠ a := by simpa using hne
    simp only [State.store] at hd
    simp [bankRead, State.store, hd, Store.elem_put_ne _ _ _ hne]
  · have : w.toNat ≠ u.toNat := fun e => hw (BitVec.eq_of_toNat_eq e)
    simp [bankRead, State.store, assocGet_put_ne _ _ this]

/-- Reading depends on the datastores alone. -/
theorem bankRead_congr {s t : State} (h : t.stores = s.stores) (u : Byte) (b : BankName) (a : Nat) :
    bankRead t u b a = bankRead s u b a := by
  simp [bankRead, State.store, h]

/-! What a bank operation of the sequencer or of the host can do to a state. -/

/-- `t` differs from `s` in the datastores, the host's schedule and the host's answers alone; memory stays canonical,
no datastore appears and no length changes; an element outside the ones `w` marks reads as before. -/
structure BankStep (w : Byte → BankName → Nat → Bool) (s t : State) : Prop where
  frame : t = { s with stores := t.stores, hostQ := t.hostQ, hostOut := t.hostOut }
  canon : memoryWf s.stores = true → memoryWf t.stores = true
  shape : ∀ u, t.shape u = s.shape u
  other : ∀ u b a, w u b a = false → bankRead t u b a = bankRead s u b a

/-- Doing nothing is such a step. -/
theorem BankStep.refl (w : Byte → BankName → Nat → Bool) (s : State) : BankStep w s s :=
  ⟨rfl, id, fun _ => rfl, fun _ _ _ _ => rfl⟩

/-- Two such steps are one. -/
theorem BankStep.comp {w : Byte → BankName → Nat → Bool} {s t r : State} (h : BankStep w s t) (k : BankStep w t r) :
    BankStep w s r := by
  refine ⟨?_, fun m => k.canon (h.canon m), fun u => (k.shape u).trans (h.shape u),
    fun u b a e => (k.other u b a e).trans (h.other u b a e)⟩
  have h1 := h.frame
  have h2 := k.frame
  generalize t.stores = a1 at h1
  generalize t.hostQ = a2 at h1
  generalize t.hostOut = a3 at h1
  subst h1
  exact h2

/-- More marked elements allow no less. -/
theorem BankStep.mono {w w' : Byte → BankName → Nat → Bool} {s t : State} (h : BankStep w s t)
    (hw : ∀ u b a, w' u b a = false → w u b a = false) : BankStep w' s t :=
  ⟨h.frame, h.canon, h.shape, fun u b a e => h.other u b a (hw u b a e)⟩

/-- A change of the host's schedule and answers alone. -/
theorem BankStep.host (w : Byte → BankName → Nat → Bool) (s : State) (q : List Slot) (o : List HostReply) :
    BankStep w s { s with hostQ := q, hostOut := o } :=
  ⟨rfl, id, fun _ => rfl, fun _ _ _ _ => rfl⟩

/-- An element write of a marked element. -/
theorem BankStep.write {w : Byte → BankName → Nat → Bool} {s t : State} {u : Byte} {b : BankName} {a : Nat}
    {v : Word} (h : bankWrite s u b a v = .ok t) (hw : w u b a = true) : BankStep w s t := by
  refine ⟨?_, bankWrite_wf h, bankWrite_shape h, fun x c i e => bankRead_bankWrite_ne h ?_⟩
  · obtain ⟨d, -, -, rfl⟩ := bankWrite_ok h; rfl
  · by_contra hc
    simp only [not_or, not_not] at hc
    obtain ⟨rfl, rfl, rfl⟩ := hc
    simp [hw] at e

/-- The element a host access writes. -/
def accWrites (acc : HostAccess) (u : Byte) (b : BankName) (a : Nat) : Bool :=
  hostWrites [⟨0, acc⟩] u b a

/-- Everything a host access can do (44_bank.md R218). -/
theorem hostDo_step (acc : HostAccess) (s : State) : BankStep (accWrites acc) s (hostDo acc s) := by
  cases acc with
  | read u b i => simp only [hostDo]; split <;> exact BankStep.host _ s s.hostQ _
  | write u b i v =>
    simp only [hostDo]
    split
    · rename_i t h
      exact (BankStep.write h (by simp [accWrites, hostWrites])).comp (BankStep.host _ t t.hostQ _)
    · exact BankStep.host _ s s.hostQ _

/-- Making the accesses that are due: what they write is in the schedule, what stays scheduled was. -/
theorem hostDue_step : ∀ (q : List Slot) (s : State),
    BankStep (hostWrites q) s (hostDue q s) ∧
      ∀ u b a, hostWrites q u b a = false → hostWrites (hostDue q s).hostQ u b a = false
  | [], s => ⟨BankStep.host _ s [] s.hostOut, fun _ _ _ h => h⟩
  | ⟨0, acc⟩ :: q, s => by
    obtain ⟨h1, h2⟩ := hostDue_step q (hostDo acc s)
    have e : ∀ u b a, hostWrites (⟨0, acc⟩ :: q) u b a = false →
        accWrites acc u b a = false ∧ hostWrites q u b a = false := by
      intro u b a h
      simpa [accWrites, hostWrites] using h
    exact ⟨((hostDo_step acc s).mono fun u b a h => (e u b a h).1).comp (h1.mono fun u b a h => (e u b a h).2),
      fun u b a h => h2 u b a (e u b a h).2⟩
  | ⟨n + 1, acc⟩ :: q, s => by
    refine ⟨BankStep.host _ s _ s.hostOut, fun u b a h => ?_⟩
    simpa [hostDue, hostWrites] using h

/-- Everything the host's turn can do. -/
theorem hostTurn_step (s : State) :
    BankStep (hostWrites s.hostQ) s s.hostTurn ∧
      ∀ u b a, hostWrites s.hostQ u b a = false → hostWrites s.hostTurn.hostQ u b a = false :=
  hostDue_step s.hostQ s

/-- With no host access scheduled the host's turn does nothing. -/
theorem hostTurn_quiet {s : State} (h : s.hostQ = []) : s.hostTurn = s := by
  have : s.hostTurn = hostDue s.hostQ s := rfl
  rw [this, h]
  cases s
  simp_all [hostDue]

/-- Everything the accesses left at a command's end can do. -/
theorem hostFlush_step (s : State) : BankStep (hostWrites s.hostQ) s s.hostFlush ∧ s.hostFlush.hostQ = [] := by
  have key : ∀ (q : List Slot) (t : State),
      BankStep (hostWrites q) t (q.foldl (fun t slot => hostDo slot.acc t) t) := by
    intro q
    induction q with
    | nil => exact fun t => BankStep.refl _ t
    | cons x q ih =>
      intro t
      have e : ∀ u b a, hostWrites (x :: q) u b a = false →
          accWrites x.acc u b a = false ∧ hostWrites q u b a = false := by
        intro u b a h
        simpa [accWrites, hostWrites] using h
      exact ((hostDo_step x.acc t).mono fun u b a h => (e u b a h).1).comp
        ((ih _).mono fun u b a h => (e u b a h).2)
  exact ⟨(key s.hostQ s).comp (BankStep.host _ _ [] _), rfl⟩

/-- With no host access scheduled nothing is left at the end. -/
theorem hostFlush_quiet {s : State} (h : s.hostQ = []) : s.hostFlush = s := by
  cases s
  simp_all [State.hostFlush]

/-! The sequencer's accesses. -/

/-- What the host may write from here on, and `w`. -/
def withHost (s : State) (w : Byte → BankName → Nat → Bool) (u : Byte) (b : BankName) (a : Nat) : Bool :=
  hostWrites s.hostQ u b a || w u b a

/-- `t` is reached from `s` by bank accesses that store to elements `w` marks or the host's schedule names, and the
schedule only shrinks. -/
def SeqStep (w : Byte → BankName → Nat → Bool) (s t : State) : Prop :=
  BankStep (withHost s w) s t ∧ ∀ u b a, hostWrites s.hostQ u b a = false → hostWrites t.hostQ u b a = false

theorem SeqStep.refl (w : Byte → BankName → Nat → Bool) (s : State) : SeqStep w s s :=
  ⟨BankStep.refl _ s, fun _ _ _ h => h⟩

theorem SeqStep.comp {w : Byte → BankName → Nat → Bool} {s t r : State} (h : SeqStep w s t) (k : SeqStep w t r) :
    SeqStep w s r := by
  refine ⟨h.1.comp (k.1.mono fun u b a e => ?_), fun u b a e => k.2 u b a (h.2 u b a e)⟩
  simp only [withHost, Bool.or_eq_false_iff] at *
  exact ⟨h.2 u b a e.1, e.2⟩

theorem SeqStep.mono {w w' : Byte → BankName → Nat → Bool} {s t : State} (h : SeqStep w s t)
    (hw : ∀ u b a, w' u b a = false → w u b a = false) : SeqStep w' s t := by
  refine ⟨h.1.mono fun u b a e => ?_, h.2⟩
  simp only [withHost, Bool.or_eq_false_iff] at *
  exact ⟨e.1, hw u b a e.2⟩

/-- The host's turn is such a step, whatever `w` marks. -/
theorem SeqStep.turn (w : Byte → BankName → Nat → Bool) (s : State) : SeqStep w s s.hostTurn := by
  refine ⟨(hostTurn_step s).1.mono fun u b a e => ?_, (hostTurn_step s).2⟩
  simp only [withHost, Bool.or_eq_false_iff] at e
  exact e.1

/-- Everything one element write of the sequencer can do. -/
theorem seqWrite_step {w : Byte → BankName → Nat → Bool} {u : Byte} {b : BankName} {a : Nat} (v : Word)
    (hw : w u b a = true) (s : State) : SeqStep w s (seqWrite u b a v s).1 := by
  simp only [seqWrite]
  split
  · rename_i t h
    refine (SeqStep.turn w s).comp ⟨BankStep.write h (by simp [withHost, hw]), ?_⟩
    obtain ⟨d, -, -, rfl⟩ := bankWrite_ok h
    exact fun _ _ _ e => e
  · exact SeqStep.turn w s

/-- Everything a run of element reads can do. -/
theorem seqReads_step (w : Byte → BankName → Nat → Bool) (u : Byte) (b : BankName) :
    ∀ (n a : Nat) (s : State), SeqStep w s (seqReads u b a n s).1
  | 0, _, s => SeqStep.refl w s
  | n + 1, a, s => by
    simp only [seqReads, seqRead]
    split
    · rename_i h; obtain ⟨rfl, -⟩ := Prod.mk.inj h; exact SeqStep.turn w s
    · rename_i h
      obtain ⟨rfl, -⟩ := Prod.mk.inj h
      have ih := seqReads_step w u b n (a + 1) s.hostTurn
      split <;> (rename_i k; rw [k] at ih; exact (SeqStep.turn w s).comp ih)

/-- Everything a run of element writes can do: it stores to the elements from `a` on, one per value. -/
theorem seqWrites_step {w : Byte → BankName → Nat → Bool} {u : Byte} {b : BankName} :
    ∀ (vs : List Word) (a : Nat) (_ : ∀ i, a ≤ i → i < a + vs.length → w u b i = true) (s : State),
      SeqStep w s (seqWrites u b a vs s).1
  | [], _, _, s => SeqStep.refl w s
  | v :: vs, a, hw, s => by
    have h1 := seqWrite_step v (hw a (Nat.le_refl a) (by simp)) s
    simp only [seqWrites]
    split
    · rename_i k; rw [k] at h1; exact h1
    · rename_i k
      rw [k] at h1
      exact h1.comp (seqWrites_step vs (a + 1)
        (fun i hi hj => hw i (by omega) (by simp only [List.length_cons]; omega)) _)

end Sys2Proof.Machine
end

