-- ==== Sys2Proof/Laws/PerInstr.lean ====
section
/-! SUPPORT. Statements for all instructions, one lemma per constructor: the code byte by which the opcode table selects
an instruction is the first byte of its encoding, and a well-formed instruction of a default row has a code that no
other row of its layer has. -/

namespace Sys2Proof.Laws.CodeByte

/-- The code of an instruction's row in the opcode table (30_encoding.md R100, R120); a default row has every code no
other row of its layer has (R111, R121), and its instruction carries it. -/
def codeOf : Instr → Byte
  | .rdCoils _ _ => 0x01#8
  | .rdDiscrete _ _ => 0x02#8
  | .rdHolding _ _ => 0x03#8
  | .rdInput _ _ => 0x04#8
  | .wrCoil _ _ => 0x05#8
  | .wrReg _ _ => 0x06#8
  | .wrCoils _ _ _ _ => 0x0F#8
  | .wrRegs _ _ _ _ => 0x10#8
  | .maskWr _ _ _ => 0x16#8
  | .rwRegs _ _ _ _ _ _ => 0x17#8
  | .unrecognized fc => fc
  | .crc16 => 0x01#8
  | .lrc => 0x02#8
  | .hexenc => 0x03#8
  | .hexdec => 0x04#8
  | .mbapBuild => 0x05#8
  | .mbapParse => 0x06#8
  | .encRtu => 0x08#8
  | .encAscii => 0x09#8
  | .encMbap => 0x0A#8
  | .decRtu => 0x0C#8
  | .decAscii => 0x0D#8
  | .decMbap => 0x0E#8
  | .dsNew => 0x10#8
  | .dsNewDefault => 0x11#8
  | .bankRd => 0x12#8
  | .bankWr => 0x13#8
  | .execReq => 0x18#8
  | .slaveRtu => 0x1C#8
  | .slaveAscii => 0x1D#8
  | .slaveMbap => 0x1E#8
  | .nextTxid => 0x20#8
  | .req => 0x21#8
  | .mreqRtu => 0x24#8
  | .mreqAscii => 0x25#8
  | .mreqMbap => 0x26#8
  | .rspRtu => 0x28#8
  | .rspAscii => 0x29#8
  | .rspMbap => 0x2A#8
  | .start => 0x30#8
  | .stop => 0x31#8
  | .undefinedCmd code => code

/-- The encoding starts with the row's code, and the code selects the row: of the ten function codes for a request PDU,
of the thirty command codes for a command, and of neither for the default row of the layer. -/
def Statement (i : Instr) : Prop :=
  (encode i).head? = some (codeOf i) ∧
    (i.wf = true →
      match i with
      | .unrecognized fc => isFunction fc = false
      | .undefinedCmd code => isCommand code = false
      | j => (match j.layer with
        | .wire => isFunction (codeOf j)
        | .command => isCommand (codeOf j)) = true)

theorem rdCoils (start qty : Word) : Statement (.rdCoils start qty) := ⟨rfl, fun _ => rfl⟩

theorem rdDiscrete (start qty : Word) : Statement (.rdDiscrete start qty) := ⟨rfl, fun _ => rfl⟩

theorem rdHolding (start qty : Word) : Statement (.rdHolding start qty) := ⟨rfl, fun _ => rfl⟩

theorem rdInput (start qty : Word) : Statement (.rdInput start qty) := ⟨rfl, fun _ => rfl⟩

theorem wrCoil (addr value : Word) : Statement (.wrCoil addr value) := ⟨rfl, fun _ => rfl⟩

theorem wrReg (addr value : Word) : Statement (.wrReg addr value) := ⟨rfl, fun _ => rfl⟩

theorem wrCoils (start qty : Word) (count : Byte) (bytes : List Byte) :
    Statement (.wrCoils start qty count bytes) := ⟨rfl, fun _ => rfl⟩

theorem wrRegs (start qty : Word) (count : Byte) (bytes : List Byte) :
    Statement (.wrRegs start qty count bytes) := ⟨rfl, fun _ => rfl⟩

theorem maskWr (addr andMask orMask : Word) : Statement (.maskWr addr andMask orMask) := ⟨rfl, fun _ => rfl⟩

theorem rwRegs (rstart rqty wstart wqty : Word) (count : Byte) (bytes : List Byte) :
    Statement (.rwRegs rstart rqty wstart wqty count bytes) := ⟨rfl, fun _ => rfl⟩

theorem unrecognized (fc : Byte) : Statement (.unrecognized fc) :=
  ⟨rfl, fun h => by simpa [Instr.wf] using h⟩

theorem crc16 : Statement .crc16 := ⟨rfl, fun _ => rfl⟩

theorem lrc : Statement .lrc := ⟨rfl, fun _ => rfl⟩

theorem hexenc : Statement .hexenc := ⟨rfl, fun _ => rfl⟩

theorem hexdec : Statement .hexdec := ⟨rfl, fun _ => rfl⟩

theorem mbapBuild : Statement .mbapBuild := ⟨rfl, fun _ => rfl⟩

theorem mbapParse : Statement .mbapParse := ⟨rfl, fun _ => rfl⟩

theorem encRtu : Statement .encRtu := ⟨rfl, fun _ => rfl⟩

theorem encAscii : Statement .encAscii := ⟨rfl, fun _ => rfl⟩

theorem encMbap : Statement .encMbap := ⟨rfl, fun _ => rfl⟩

theorem decRtu : Statement .decRtu := ⟨rfl, fun _ => rfl⟩

theorem decAscii : Statement .decAscii := ⟨rfl, fun _ => rfl⟩

theorem decMbap : Statement .decMbap := ⟨rfl, fun _ => rfl⟩

theorem dsNew : Statement .dsNew := ⟨rfl, fun _ => rfl⟩

theorem dsNewDefault : Statement .dsNewDefault := ⟨rfl, fun _ => rfl⟩

theorem bankRd : Statement .bankRd := ⟨rfl, fun _ => rfl⟩

theorem bankWr : Statement .bankWr := ⟨rfl, fun _ => rfl⟩

theorem execReq : Statement .execReq := ⟨rfl, fun _ => rfl⟩

theorem slaveRtu : Statement .slaveRtu := ⟨rfl, fun _ => rfl⟩

theorem slaveAscii : Statement .slaveAscii := ⟨rfl, fun _ => rfl⟩

theorem slaveMbap : Statement .slaveMbap := ⟨rfl, fun _ => rfl⟩

theorem nextTxid : Statement .nextTxid := ⟨rfl, fun _ => rfl⟩

theorem req : Statement .req := ⟨rfl, fun _ => rfl⟩

theorem mreqRtu : Statement .mreqRtu := ⟨rfl, fun _ => rfl⟩

theorem mreqAscii : Statement .mreqAscii := ⟨rfl, fun _ => rfl⟩

theorem mreqMbap : Statement .mreqMbap := ⟨rfl, fun _ => rfl⟩

theorem rspRtu : Statement .rspRtu := ⟨rfl, fun _ => rfl⟩

theorem rspAscii : Statement .rspAscii := ⟨rfl, fun _ => rfl⟩

theorem rspMbap : Statement .rspMbap := ⟨rfl, fun _ => rfl⟩

theorem start : Statement .start := ⟨rfl, fun _ => rfl⟩

theorem stop : Statement .stop := ⟨rfl, fun _ => rfl⟩

theorem undefinedCmd (code : Byte) : Statement (.undefinedCmd code) :=
  ⟨rfl, fun h => by simpa [Instr.wf] using h⟩

end Sys2Proof.Laws.CodeByte
end

