-- ==== Sys2Proof/Laws/Sequencer.lean ====
section
/-! SUPPORT. Runs of the sequencer's element accesses: in range they never fail, whatever the host does meanwhile; with no
host access scheduled they read and write exactly the elements asked for. -/

namespace Sys2Proof.Machine

/-- Reading succeeds exactly on a present unit below the bank's length (44_bank.md R214). -/
theorem bankRead_eq_ok {s : State} {u : Byte} {d : Store} (h : s.store u = some d) {b : BankName} {a : Nat}
    (ha : a < d.len b) : bankRead s u b a = .ok (d.elem u b a) := by
  simp [bankRead, h, ha]

/-- Writing succeeds on a present unit below the bank's length (44_bank.md R215). -/
theorem bankWrite_eq_ok {s : State} {u : Byte} {d : Store} (h : s.store u = some d) {b : BankName} {a : Nat} (v : Word)
    (ha : a < d.len b) :
    bankWrite s u b a v = .ok (s.setStores (assocPut s.stores u.toNat (d.put b a v))) := by
  simp only [bankWrite, h, if_pos ha]; rfl

/-- Equal shapes: where one state has a datastore, the other has one with the same lengths. -/
theorem store_of_shape {s t : State} {u : Byte} (hs : t.shape u = s.shape u) {d : Store} (h : s.store u = some d) :
    ∃ e, t.store u = some e ∧ ∀ b, e.len b = d.len b := by
  simp only [State.shape, h, Option.map_some] at hs
  obtain ⟨e, he, hl⟩ := Option.map_eq_some_iff.1 hs
  simp only [Store.lens, Prod.mk.injEq] at hl
  exact ⟨e, he, fun b => by cases b <;> simp [Store.len, hl]⟩

/-- Everything but the datastores, the schedule and the answers is as before. -/
theorem SeqStep.frame {w : Byte → BankName → Nat → Bool} {s t : State} (h : SeqStep w s t) :
    t = { s with stores := t.stores, hostQ := t.hostQ, hostOut := t.hostOut } := h.1.frame

/-- Reads in range never fail, whatever host accesses fall between them. -/
theorem seqReads_ok (u : Byte) (b : BankName) :
    ∀ (n a : Nat) (s : State) (d : Store), s.store u = some d → a + n ≤ d.len b →
      ∃ vs, (seqReads u b a n s).2 = .ok vs ∧ vs.length = n
  | 0, _, _, _, _, _ => ⟨[], rfl, rfl⟩
  | n + 1, a, s, d, h, hr => by
    obtain ⟨e, he, hl⟩ := store_of_shape ((hostTurn_step s).1.shape u) h
    have hb := bankRead_eq_ok he (b := b) (a := a) (by rw [hl]; omega)
    obtain ⟨vs, hvs, hn⟩ := seqReads_ok u b n (a + 1) s.hostTurn e he (by rw [hl]; omega)
    refine ⟨e.elem u b a :: vs, ?_, by simp [hn]⟩
    simp only [seqReads, seqRead, hb]
    split
    · rename_i k; rw [k] at hvs; cases hvs
    · rename_i k; rw [k] at hvs; cases hvs; rfl

/-- Writes in range never fail, whatever host accesses fall between them. -/
theorem seqWrites_ok (u : Byte) (b : BankName) :
    ∀ (vs : List Word) (a : Nat) (s : State) (d : Store), s.store u = some d → a + vs.length ≤ d.len b →
      (seqWrites u b a vs s).2 = .ok ()
  | [], _, _, _, _, _ => rfl
  | v :: vs, a, s, d, h, hr => by
    simp only [List.length_cons] at hr
    obtain ⟨e, he, hl⟩ := store_of_shape ((hostTurn_step s).1.shape u) h
    have hb := bankWrite_eq_ok he (b := b) (a := a) v (by rw [hl]; omega)
    simp only [seqWrites, seqWrite, hb]
    obtain ⟨e', he', hl'⟩ := store_of_shape (bankWrite_shape hb u) he
    exact seqWrites_ok u b vs (a + 1) _ e' he' (by rw [hl', hl]; omega)

/-- With no host access scheduled a run of reads leaves the state alone and returns the elements. -/
theorem seqReads_quiet (u : Byte) (b : BankName) :
    ∀ (n a : Nat) (s : State) (d : Store), s.hostQ = [] → s.store u = some d → a + n ≤ d.len b →
      ∃ vs, seqReads u b a n s = (s, .ok vs) ∧ vs.length = n ∧ Holds s u b a vs
  | 0, _, _, _, _, _, _ => ⟨[], rfl, rfl, fun k hk => by simp at hk⟩
  | n + 1, a, s, d, hq, h, hr => by
    obtain ⟨vs, hvs, hn, hh⟩ := seqReads_quiet u b n (a + 1) s d hq h (by omega)
    have hb := bankRead_eq_ok h (b := b) (a := a) (by omega)
    refine ⟨d.elem u b a :: vs, ?_, by simp [hn], ?_⟩
    · simp only [seqReads, seqRead, hostTurn_quiet hq, hb, hvs]
    · intro k hk
      cases k with
      | zero => simpa using hb
      | succ k =>
        have := hh k (by simpa using hk)
        simpa [Nat.add_assoc, Nat.add_comm 1 k] using this

/-- The values as the elements of a bank hold them: one bit of each, or all sixteen. -/
theorem Stored.nil (s : State) (u : Byte) (b : BankName) (a : Nat) : Stored s s u b a [] :=
  ⟨fun k hk => by simp at hk, fun _ _ _ _ => rfl, fun _ => rfl⟩

/-- One write and then a run of writes above it is one run. -/
theorem Stored.cons {s t r : State} {u : Byte} {b : BankName} {a : Nat} {v : Word} {vs : List Word}
    (h : Stored s t u b a [v]) (k : Stored t r u b (a + 1) vs) : Stored s r u b a (v :: vs) := by
  refine ⟨fun i hi => ?_, fun u' b' x hx => ?_, fun w => (k.2.2 w).trans (h.2.2 w)⟩
  · cases i with
    | zero =>
      rw [k.2.1 u b (a + 0) (by simp)]
      simpa using h.1 0 (by simp)
    | succ i =>
      have := k.1 i (by simpa using hi)
      simpa [Nat.add_assoc, Nat.add_comm 1 i] using this
  · rw [k.2.1 u' b' x, h.2.1 u' b' x]
    · rcases hx with h1 | h1 | h1 | h1
      · exact .inl h1
      · exact .inr (.inl h1)
      · exact .inr (.inr (.inl h1))
      · exact .inr (.inr (.inr (by simp only [List.length_cons, List.length_nil] at *; omega)))
    · rcases hx with h1 | h1 | h1 | h1
      · exact .inl h1
      · exact .inr (.inl h1)
      · exact .inr (.inr (.inl (by omega)))
      · exact .inr (.inr (.inr (by simp only [List.length_cons] at h1; omega)))

/-- One element write, in terms of reads. -/
theorem Stored.one {s t : State} {u : Byte} {b : BankName} {a : Nat} {v : Word} (h : bankWrite s u b a v = .ok t) :
    Stored s t u b a [narrow b v] := by
  refine ⟨fun k hk => ?_, fun u' b' x hx => bankRead_bankWrite_ne h ?_, bankWrite_shape h⟩
  · obtain rfl : k = 0 := by simpa using hk
    simpa using bankRead_bankWrite_self h
  · rcases hx with h1 | h1 | h1 | h1
    · exact .inl h1
    · exact .inr (.inl h1)
    · exact .inr (.inr (by omega))
    · exact .inr (.inr (by simp only [List.length_cons, List.length_nil] at h1; omega))

/-- With no host access scheduled a run of writes in range stores exactly its values. -/
theorem seqWrites_quiet (u : Byte) (b : BankName) :
    ∀ (vs : List Word) (a : Nat) (s : State) (d : Store), s.hostQ = [] → s.store u = some d →
      a + vs.length ≤ d.len b →
      ∃ t, seqWrites u b a vs s = (t, .ok ()) ∧ t = s.setStores t.stores ∧ Stored s t u b a (vs.map (narrow b))
  | [], a, s, _, _, _, _ => ⟨s, rfl, rfl, Stored.nil s u b a⟩
  | v :: vs, a, s, d, hq, h, hr => by
    simp only [List.length_cons] at hr
    have hb := bankWrite_eq_ok h (b := b) (a := a) v (by omega)
    obtain ⟨e, he, hl⟩ := store_of_shape (bankWrite_shape hb u) h
    obtain ⟨t, ht, hf, hs⟩ := seqWrites_quiet u b vs (a + 1) _ e (by simpa using hq) he (by rw [hl]; omega)
    refine ⟨t, ?_, ?_, (Stored.one hb).cons hs⟩
    · simp only [seqWrites, seqWrite, hostTurn_quiet hq, hb, ht]
    · rw [hf]; rfl

end Sys2Proof.Machine
end

