-- ==== Sys2Proof/Laws/Requests.lean ====
section
/-! SUPPORT. Requests: what serving one does, in terms of the function's answer; the packed and the wire forms of data. -/

namespace Sys2Proof.Machine

/-- A request for an absent unit is discarded before its function runs (45_request_exec.md R231). -/
theorem serve_absent (fc : Byte) (f : Byte → Store → State → State × Answer) {s : State}
    (h : s.store s.reqUnit = none) : serve fc f s = s.discarded .discardedUnit := by
  have h' : (s.setSphase .dispatching).store (s.pdu.cells.headD 0) = none := h
  simp only [serve, h']
  rfl

/-- A request for a present unit runs its function; the answer becomes the reply message (45_request_exec.md R230). -/
theorem serve_present (fc : Byte) (f : Byte → Store → State → State × Answer) {s : State} {d : Store}
    (h : s.store s.reqUnit = some d) :
    serve fc f s =
      (f s.reqUnit d (s.setSphase .dispatching)).1.reply s.reqUnit
        (replyPdu fc (f s.reqUnit d (s.setSphase .dispatching)).2) := by
  have h' : (s.setSphase .dispatching).store (s.pdu.cells.headD 0) = some d := h
  simp only [serve, h']
  rfl

/-- The reply of a request that made no access. -/
theorem reply_same (s : State) (u : Byte) (r : List Byte) :
    (s.setSphase .dispatching).reply u r = s.replied u r := rfl

/-- The reply of a request that changed the datastores alone. -/
theorem reply_stores {s t : State} (h : t = (s.setSphase .dispatching).setStores t.stores) (u : Byte)
    (r : List Byte) : t.reply u r = { s.replied u r with stores := t.stores } := by
  rw [h]; rfl

/-- A request's present unit has the datastore the function is given. -/
theorem store_dispatching {s : State} {u : Byte} : (s.setSphase .dispatching).store u = s.store u := rfl

/-- Reads do not depend on registers, buffers and phases. -/
theorem bankRead_replied (s : State) (u : Byte) (r : List Byte) (st : List (Nat × Store)) (v : Byte) (b : BankName)
    (a : Nat) : bankRead { s.replied u r with stores := st } v b a = bankRead (s.setStores st) v b a := rfl

/-- A byte packed from entries: bit `j` is bit 0 of entry `8k + j` (30_encoding.md R91). -/
theorem packByte_bit (e : List Word) (k j : Nat) (hj : j < 8) :
    (packByte e k).getLsbD j = (e.getD (8 * k + j) 0).getLsbD 0 := by
  have key : ∀ b0 b1 b2 b3 b4 b5 b6 b7 : Bool, ∀ j : Fin 8,
      ((List.range 8).foldl
        (fun acc j => if [b0, b1, b2, b3, b4, b5, b6, b7].getD j false then acc ||| (1#8 <<< j) else acc)
          0#8).getLsbD j.val = [b0, b1, b2, b3, b4, b5, b6, b7].getD j.val false := by
    decide
  have h := key ((e.getD (8 * k + 0) 0).getLsbD 0) ((e.getD (8 * k + 1) 0).getLsbD 0)
    ((e.getD (8 * k + 2) 0).getLsbD 0) ((e.getD (8 * k + 3) 0).getLsbD 0) ((e.getD (8 * k + 4) 0).getLsbD 0)
    ((e.getD (8 * k + 5) 0).getLsbD 0) ((e.getD (8 * k + 6) 0).getLsbD 0) ((e.getD (8 * k + 7) 0).getLsbD 0) ⟨j, hj⟩
  have l : ∀ j, j < 8 → [(e.getD (8 * k + 0) 0).getLsbD 0, (e.getD (8 * k + 1) 0).getLsbD 0,
      (e.getD (8 * k + 2) 0).getLsbD 0, (e.getD (8 * k + 3) 0).getLsbD 0, (e.getD (8 * k + 4) 0).getLsbD 0,
      (e.getD (8 * k + 5) 0).getLsbD 0, (e.getD (8 * k + 6) 0).getLsbD 0,
      (e.getD (8 * k + 7) 0).getLsbD 0].getD j false = (e.getD (8 * k + j) 0).getLsbD 0 := by
    intro j hj
    interval_cases j <;> rfl
  have r : List.range 8 = [0, 1, 2, 3, 4, 5, 6, 7] := rfl
  rw [l j hj] at h
  rw [← h]
  simp only [packByte, r, List.foldl_cons, List.foldl_nil]
  rfl

/-- The packing is the one R91 describes. -/
theorem packedAs_pack (e : List Word) : PackedAs (pack e) e := by
  have bit : ∀ i, i / 8 < ceil8 e.length →
      ((pack e).getD (i / 8) 0).getLsbD (i % 8) = (e.getD i 0).getLsbD 0 := by
    intro i hi
    have : (pack e).getD (i / 8) 0 = packByte e (i / 8) := by simp [pack, hi]
    rw [this, packByte_bit e (i / 8) (i % 8) (Nat.mod_lt _ (by omega)), Nat.div_add_mod]
  refine ⟨by simp [ceil8], fun i hi => bit i (by simp only [ceil8]; omega), fun i hi => ?_⟩
  by_cases h : i / 8 < ceil8 e.length
  · rw [bit i h]
    have : e.getD i 0 = 0 := by simp [hi]
    rw [this]; rfl
  · have : (pack e).getD (i / 8) 0 = 0 := by
      rw [List.getD_eq_default]; simpa using Nat.not_lt.1 h
    rw [this]; simp

/-! What the ten functions can do: answer an exception with nothing done, or answer a reply. -/

/-- What a function may answer a request with: exception 1, 2 or 3 in the state it started in, or a reply PDU of 2 to 252
bytes that starts with its function code, one of the ten (45_request_exec.md R234, 30_encoding.md R87). Never exception 4
(60_exceptions.md R312). -/
def Answered (s : State) (fc : Byte) (r : State × Answer) : Prop :=
  (∃ c : Byte, (c = 1 ∨ c = 2 ∨ c = 3) ∧ r = (s, .error c)) ∨
    ∃ p, r.2 = .ok (fc :: p) ∧ 1 ≤ p.length ∧ p.length ≤ 251 ∧ isFunction fc = true

theorem Answered.exception {s : State} {fc : Byte} (c : Byte) (h : c = 1 ∨ c = 2 ∨ c = 3) :
    Answered s fc (s, .error c) := .inl ⟨c, h, rfl⟩

/-- Everything a reading function can do. -/
theorem readFunction_spec (w : Byte → BankName → Nat → Bool) {fc : Byte} {b : BankName} {qmax : Nat}
    {count : Nat → Nat} {data : List Word → List Byte} (start qty : Word) {u : Byte} {d : Store} {s : State}
    (hf : isFunction fc = true) (h : s.store u = some d)
    (hd : ∀ e : List Word, e.length = qty.toNat → qty.toNat ≤ qmax → (data e).length ≤ 250) :
    Answered s fc (readFunction fc b qmax count data start qty u d s) ∧
      SeqStep w s (readFunction fc b qmax count data start qty u d s).1 := by
  simp only [readFunction]
  split
  · exact ⟨Answered.exception _ (by simp), SeqStep.refl w s⟩
  split
  · exact ⟨Answered.exception _ (by simp), SeqStep.refl w s⟩
  split
  · exact ⟨Answered.exception _ (by simp), SeqStep.refl w s⟩
  obtain ⟨vs, hv, hn⟩ := seqReads_ok u b qty.toNat start.toNat s d h (by omega)
  have hs := seqReads_step w u b qty.toNat start.toNat s
  split
  · rename_i k
    rw [k] at hv hs
    cases hv
    exact ⟨.inr ⟨_, rfl, by simp, by have := hd vs hn (by omega); simp; omega, hf⟩, hs⟩
  · rename_i k
    rw [k] at hv
    cases hv

/-- Everything a single write can do. -/
theorem writeOne_spec {w : Byte → BankName → Nat → Bool} {fc : Byte} {b : BankName} (valid : Bool) (addr value : Word)
    {p : List Byte} {u : Byte} {d : Store} {s : State} (hf : isFunction fc = true)
    (h : s.store u = some d) (hp : 1 ≤ p.length ∧ p.length ≤ 251)
    (hw : w u b addr.toNat = true) :
    Answered s fc (writeOne b valid addr value (fc :: p) u d s) ∧
      SeqStep w s (writeOne b valid addr value (fc :: p) u d s).1 := by
  simp only [writeOne]
  split
  · exact ⟨Answered.exception _ (by simp), SeqStep.refl w s⟩
  split
  · exact ⟨Answered.exception _ (by simp), SeqStep.refl w s⟩
  split
  · exact ⟨Answered.exception _ (by simp), SeqStep.refl w s⟩
  have hs := seqWrite_step value hw s
  obtain ⟨e, he, hl⟩ := store_of_shape ((hostTurn_step s).1.shape u) h
  have hb := bankWrite_eq_ok he (b := b) (a := addr.toNat) value (by rw [hl]; omega)
  simp only [seqWrite, hb] at hs ⊢
  exact ⟨.inr ⟨p, rfl, hp.1, hp.2, hf⟩, hs⟩

/-- Everything a multiple write can do. -/
theorem writeMany_spec {w : Byte → BankName → Nat → Bool} {fc : Byte} {b : BankName} {qmax : Nat} {need : Nat → Nat}
    {values : List Byte → Nat → List Word} (start qty : Word) (count : Byte) (bytes : List Byte) {u : Byte} {d : Store}
    {s : State} (hf : isFunction fc = true) (h : s.store u = some d) (hv : (values bytes qty.toNat).length ≤ qty.toNat)
    (hw : ∀ a, start.toNat ≤ a → a < start.toNat + qty.toNat → w u b a = true) :
    Answered s fc (writeMany fc b qmax need values start qty count bytes u d s) ∧
      SeqStep w s (writeMany fc b qmax need values start qty count bytes u d s).1 := by
  simp only [writeMany]
  split
  · exact ⟨Answered.exception _ (by simp), SeqStep.refl w s⟩
  split
  · exact ⟨Answered.exception _ (by simp), SeqStep.refl w s⟩
  split
  · exact ⟨Answered.exception _ (by simp), SeqStep.refl w s⟩
  split
  · exact ⟨Answered.exception _ (by simp), SeqStep.refl w s⟩
  have ho := seqWrites_ok u b (values bytes qty.toNat) start.toNat s d h (by omega)
  have hs := seqWrites_step (w := w) (u := u) (b := b) (values bytes qty.toNat) start.toNat
    (fun i h1 h2 => hw i h1 (by omega)) s
  split
  · rename_i k
    rw [k] at hs
    exact ⟨.inr ⟨_, rfl, by simp [be], by simp [be], hf⟩, hs⟩
  · rename_i k
    rw [k] at ho
    cases ho

/-- Everything a mask write can do. -/
theorem maskWrite_spec {w : Byte → BankName → Nat → Bool} {fc : Byte} (addr andMask orMask : Word) {p : List Byte}
    {u : Byte} {d : Store} {s : State} (hf : isFunction fc = true)
    (h : s.store u = some d) (hp : 1 ≤ p.length ∧ p.length ≤ 251)
    (hw : w u .hr addr.toNat = true) :
    Answered s fc (maskWrite addr andMask orMask (fc :: p) u d s) ∧
      SeqStep w s (maskWrite addr andMask orMask (fc :: p) u d s).1 := by
  simp only [maskWrite]
  split
  · exact ⟨Answered.exception _ (by simp), SeqStep.refl w s⟩
  split
  · exact ⟨Answered.exception _ (by simp), SeqStep.refl w s⟩
  obtain ⟨e, he, hl⟩ := store_of_shape ((hostTurn_step s).1.shape u) h
  have hr := bankRead_eq_ok he (b := .hr) (a := addr.toNat) (by rw [hl]; omega)
  simp only [seqRead, hr]
  have hs := seqWrite_step ((e.elem u .hr addr.toNat &&& andMask) ||| (orMask &&& ~~~andMask)) hw s.hostTurn
  obtain ⟨e', he', hl'⟩ := store_of_shape ((hostTurn_step s.hostTurn).1.shape u) he
  have hb := bankWrite_eq_ok he' (b := .hr) (a := addr.toNat)
    ((e.elem u .hr addr.toNat &&& andMask) ||| (orMask &&& ~~~andMask)) (by rw [hl', hl]; omega)
  simp only [seqWrite, hb] at hs ⊢
  exact ⟨.inr ⟨p, rfl, hp.1, hp.2, hf⟩, (SeqStep.turn w s).comp hs⟩

/-- Everything a read/write request can do. -/
theorem readWrite_spec {w : Byte → BankName → Nat → Bool} (rstart rqty wstart wqty : Word) (count : Byte)
    (bytes : List Byte) {u : Byte} {d : Store} {s : State} (h : s.store u = some d)
    (hw : ∀ a, wstart.toNat ≤ a → a < wstart.toNat + wqty.toNat → w u .hr a = true) :
    Answered s 0x17 (readWrite rstart rqty wstart wqty count bytes u d s) ∧
      SeqStep w s (readWrite rstart rqty wstart wqty count bytes u d s).1 := by
  simp only [readWrite]
  split
  · exact ⟨Answered.exception _ (by simp), SeqStep.refl w s⟩
  split
  · exact ⟨Answered.exception _ (by simp), SeqStep.refl w s⟩
  split
  · exact ⟨Answered.exception _ (by simp), SeqStep.refl w s⟩
  split
  · exact ⟨Answered.exception _ (by simp), SeqStep.refl w s⟩
  have hn : ((unwords bytes).take wqty.toNat).length ≤ wqty.toNat := by simp
  have ho := seqWrites_ok u .hr ((unwords bytes).take wqty.toNat) wstart.toNat s d h (by omega)
  have hs := seqWrites_step (w := w) (u := u) (b := .hr) ((unwords bytes).take wqty.toNat) wstart.toNat
    (fun i h1 h2 => hw i h1 (by omega)) s
  split
  · rename_i k
    rw [k] at ho
    cases ho
  · rename_i s1 _ k
    rw [k] at hs
    obtain ⟨e, he, hl⟩ := store_of_shape (hs.1.shape u) h
    obtain ⟨vs, hv, hvn⟩ := seqReads_ok u .hr rqty.toNat rstart.toNat s1 e he (by rw [hl]; omega)
    have hs2 := seqReads_step w u .hr rqty.toNat rstart.toNat s1
    split
    · rename_i k2
      rw [k2] at hv hs2
      cases hv
      exact ⟨.inr ⟨_, rfl, by simp, by simp [hvn]; omega, by decide⟩, hs.comp hs2⟩
    · rename_i k2
      rw [k2] at hv
      cases hv

/-- The elements a request may store to, for the unit it runs against. -/
def requestMarks (i : Instr) (u : Byte) (u' : Byte) (b : BankName) (a : Nat) : Bool :=
  u' == u && requestStores i b a

/-- Every request PDU is served by a function that answers an exception 1, 2 or 3 with nothing done, or a reply, and
stores to the request's own elements alone. -/
theorem wire_serve (i : Instr) (h : i.layer = .wire) :
    ∃ f, (∀ s, exec i s = .next (runRequest i s) ∧ runRequest i s = serve ((encode i).headD 0) f s) ∧
      ∀ u d s, s.store u = some d →
        Answered s ((encode i).headD 0) (f u d s) ∧ SeqStep (requestMarks i u) s (f u d s).1 := by
  cases i <;> simp only [Instr.layer, reduceCtorEq] at h
  case rdCoils a q =>
    exact ⟨_, fun s => ⟨rfl, rfl⟩, fun u d s hs => readFunction_spec _ a q rfl hs fun e he hq => by
      simp only [length_pack, ceil8]; omega⟩
  case rdDiscrete a q =>
    exact ⟨_, fun s => ⟨rfl, rfl⟩, fun u d s hs => readFunction_spec _ a q rfl hs fun e he hq => by
      simp only [length_pack, ceil8]; omega⟩
  case rdHolding a q =>
    exact ⟨_, fun s => ⟨rfl, rfl⟩, fun u d s hs => readFunction_spec _ a q rfl hs fun e he hq => by
      simp only [length_words]; omega⟩
  case rdInput a q =>
    exact ⟨_, fun s => ⟨rfl, rfl⟩, fun u d s hs => readFunction_spec _ a q rfl hs fun e he hq => by
      simp only [length_words]; omega⟩
  case wrCoil a v =>
    exact ⟨_, fun s => ⟨rfl, rfl⟩, fun u d s hs => writeOne_spec _ a _ rfl hs (by simp [be]) (by
      simp [requestMarks, requestStores])⟩
  case wrReg a v =>
    exact ⟨_, fun s => ⟨rfl, rfl⟩, fun u d s hs => writeOne_spec _ a _ rfl hs (by simp [be]) (by
      simp [requestMarks, requestStores])⟩
  case wrCoils a q c bs =>
    exact ⟨_, fun s => ⟨rfl, rfl⟩, fun u d s hs => writeMany_spec a q c bs rfl hs (by simp) (fun x h1 h2 => by
      simp [requestMarks, requestStores, h1, h2])⟩
  case wrRegs a q c bs =>
    exact ⟨_, fun s => ⟨rfl, rfl⟩, fun u d s hs => writeMany_spec a q c bs rfl hs (by simp) (fun x h1 h2 => by
      simp [requestMarks, requestStores, h1, h2])⟩
  case maskWr a m o =>
    exact ⟨_, fun s => ⟨rfl, rfl⟩, fun u d s hs => maskWrite_spec a m o rfl hs (by simp [be]) (by
      simp [requestMarks, requestStores])⟩
  case rwRegs ra rq wa wq c bs =>
    exact ⟨_, fun s => ⟨rfl, rfl⟩, fun u d s hs => readWrite_spec ra rq wa wq c bs hs (fun x h1 h2 => by
      simp [requestMarks, requestStores, h1, h2])⟩
  case unrecognized fc =>
    exact ⟨_, fun s => ⟨rfl, rfl⟩, fun u d s hs => ⟨Answered.exception 1 (by simp), SeqStep.refl _ s⟩⟩

end Sys2Proof.Machine
end

