-- ==== Sys2Proof/Tests/Slice0.lean ====
section
/-! SUPPORT. Small tests: ill-formed terms refused, words written out from the spec's encodings decoded,
    single steps with
the results of spec/95_test_vectors.md and of the rules' worked examples, and a witness for the premises of every
statement. A name T-.. in a comment is that file's id of the vector. -/

namespace Sys2Proof.Tests

set_option Elab.async false

open Sys2Proof.Machine

/-! Helpers: small states. -/

/-- A byte buffer that holds `l`. -/
def buf (l : List Byte) : ByteBuf :=
  { cells := l ++ List.replicate (1024 - l.length) 0, len := BitVec.ofNat 11 l.length }

/-- `DATABUF` holding `l`. -/
def wbuf (l : List Word) : WordBuf :=
  { cells := l ++ List.replicate (2000 - l.length) 0, len := BitVec.ofNat 11 l.length }

/-- A state with every register 0 and zero-filled buffers. -/
def zero : State :=
  { State.reset with
    rx := buf [], tx := buf [], pdu := buf [], data := wbuf [], txid := 0, crcTab := List.replicate 256 0 }

/-- Elements 0, 1, .. of a bank, in a bank of 16. -/
def bank {w : Nat} (l : List (BitVec w)) : BankMem w := ⟨16, (List.range l.length).zip l⟩

/-- The coils of set B of 95_test_vectors.md 2.6. -/
def coils : List (BitVec 1) := [1, 0, 1, 1, 0, 0, 1, 1] ++ [1, 1, 0, 1, 0, 1, 1, 0]

/-- Set B of 95_test_vectors.md 2.6: four banks of 16. -/
def setB : Store :=
  { di := bank [0, 1, 1], co := bank coils,
    ir := bank ((List.range 16).map fun i => BitVec.ofNat 16 (0x2000 + i)),
    hr := bank ((List.range 16).map fun i => BitVec.ofNat 16 (0x1000 + i)) }

/-- Four empty banks of length `n`, nothing written. -/
def blank (n : Nat) : Store := newStore n n n n

/-- Unit 1 with datastore `d` and the message `m` in `PDUBUF`. -/
def held (d : Store) (m : List Byte) : State := { zero with stores := [(1, d)], pdu := buf m }

/-- The message `m` in `PDUBUF`. -/
def msg (m : List Byte) : State := { zero with pdu := buf m }

/-- The frame `f` in `RXBUF`. -/
def frame (f : List Byte) : State := { zero with rx := buf f }

/-- A request in flight: its context registers, the response frame in `RXBUF`. -/
def flight (fc : Byte) (qty addr val val2 : Word) (f : List Byte) : State :=
  { zero with
    rx := buf f, fc := fc, unit := 1, qty := qty, addr := addr, val := val, val2 := val2, mphase := .sending }

/-- An outcome is a next state with a property. -/
def ends (o : Host.Outcome State Fault Refusal) (p : State → Bool) : Bool :=
  match o with
  | .next t => p t
  | .fault _ | .refused _ => false

/-- The next state of an instruction. -/
def after (i : Instr) (s : State) : State :=
  match exec i s with
  | .next t => t
  | .fault _ | .refused _ => s

/-! Well-formedness: one ill-formed term for each check. -/

theorem test_wf_wrCoils : (Instr.wrCoils 0 1 1 [0x01, 0x02]).wf = false := by decide
theorem test_wf_wrRegs : (Instr.wrRegs 0 1 2 [0x00, 0x01, 0x02]).wf = false := by decide
theorem test_wf_rwRegs : (Instr.rwRegs 0 1 0 1 2 [0x00, 0x01, 0x02]).wf = false := by decide
theorem test_wf_unrecognized : (Instr.unrecognized 0x03).wf = false := by decide
theorem test_wf_undefinedCmd : (Instr.undefinedCmd 0x01).wf = false := by decide
theorem test_wf_accepts : (Instr.wrCoils 4 10 2 [0xCD, 0x01]).wf = true ∧ (Instr.unrecognized 0x2B).wf = true := by
  decide

/-! Decoding: a word of every instruction, written out from 30_encoding.md R101 to R108, R111, R120, R121. -/

theorem test_decode_reads :
    decode .wire [0x01, 0x00, 0x13, 0x00, 0x25] = .ok (.rdCoils 0x0013 0x0025) ∧
      decode .wire [0x02, 0x00, 0xC4, 0x00, 0x16] = .ok (.rdDiscrete 0x00C4 0x0016) ∧
      decode .wire [0x03, 0x00, 0x00, 0x00, 0x0A] = .ok (.rdHolding 0x0000 0x000A) ∧
      decode .wire [0x04, 0x00, 0x08, 0x00, 0x01] = .ok (.rdInput 0x0008 0x0001) := by
  decide +kernel

theorem test_decode_single_writes :
    decode .wire [0x05, 0x00, 0x0A, 0xFF, 0x00] = .ok (.wrCoil 0x000A 0xFF00) ∧
      decode .wire [0x06, 0x00, 0x01, 0xAB, 0xCD] = .ok (.wrReg 0x0001 0xABCD) ∧
      decode .wire [0x16, 0x00, 0x04, 0x00, 0xF2, 0x00, 0x25] = .ok (.maskWr 0x0004 0x00F2 0x0025) := by
  decide +kernel

theorem test_decode_multiple_writes :
    decode .wire [0x0F, 0x00, 0x04, 0x00, 0x0A, 0x02, 0xCD, 0x01] = .ok (.wrCoils 0x0004 0x000A 0x02 [0xCD, 0x01]) ∧
      decode .wire [0x10, 0x00, 0x01, 0x00, 0x02, 0x04, 0x00, 0x0A, 0x01, 0x02] =
          .ok (.wrRegs 0x0001 0x0002 0x04 [0x00, 0x0A, 0x01, 0x02]) ∧
      decode .wire [0x17, 0x00, 0x03, 0x00, 0x06, 0x00, 0x0E, 0x00, 0x01, 0x02, 0x00, 0xFF] =
          .ok (.rwRegs 0x0003 0x0006 0x000E 0x0001 0x02 [0x00, 0xFF]) := by
  decide +kernel

theorem test_decode_unrecognized :
    decode .wire [0x2B, 0x0E, 0x01, 0x00] = .ok (.unrecognized 0x2B) ∧
      decode .wire [0x83, 0x00, 0x00] = .ok (.unrecognized 0x83) := by
  decide +kernel

theorem test_decode_checksum :
    decode .command [0x01] = .ok .crc16 ∧
      decode .command [0x02] = .ok .lrc := by
  decide +kernel

theorem test_decode_codec :
    decode .command [0x03] = .ok .hexenc ∧
      decode .command [0x04] = .ok .hexdec ∧
      decode .command [0x05] = .ok .mbapBuild ∧
      decode .command [0x06] = .ok .mbapParse := by
  decide +kernel

theorem test_decode_frames :
    decode .command [0x08] = .ok .encRtu ∧
      decode .command [0x09] = .ok .encAscii ∧
      decode .command [0x0A] = .ok .encMbap ∧
      decode .command [0x0C] = .ok .decRtu ∧
      decode .command [0x0D] = .ok .decAscii ∧
      decode .command [0x0E] = .ok .decMbap := by
  decide +kernel

theorem test_decode_banks :
    decode .command [0x10] = .ok .dsNew ∧
      decode .command [0x11] = .ok .dsNewDefault ∧
      decode .command [0x12] = .ok .bankRd ∧
      decode .command [0x13] = .ok .bankWr := by
  decide +kernel

theorem test_decode_execution :
    decode .command [0x18] = .ok .execReq ∧
      decode .command [0x1C] = .ok .slaveRtu ∧
      decode .command [0x1D] = .ok .slaveAscii ∧
      decode .command [0x1E] = .ok .slaveMbap := by
  decide +kernel

theorem test_decode_master :
    decode .command [0x20] = .ok .nextTxid ∧
      decode .command [0x21] = .ok .req ∧
      decode .command [0x24] = .ok .mreqRtu ∧
      decode .command [0x25] = .ok .mreqAscii ∧
      decode .command [0x26] = .ok .mreqMbap ∧
      decode .command [0x28] = .ok .rspRtu ∧
      decode .command [0x29] = .ok .rspAscii ∧
      decode .command [0x2A] = .ok .rspMbap := by
  decide +kernel

theorem test_decode_control :
    decode .command [0x30] = .ok .start ∧
      decode .command [0x31] = .ok .stop := by
  decide +kernel

theorem test_decode_undefined :
    decode .command [0x00] = .ok (.undefinedCmd 0x00) ∧ decode .command [0x32] = .ok (.undefinedCmd 0x32) ∧
      decode .command [] = .error .empty ∧ decode .command [0x01, 0x02] = .error .notOneByte := by
  decide +kernel

/-- Too short for the fixed part (T-X21, T-X22, T-X42). -/
theorem test_decode_short :
    decode .wire [0x03, 0x00, 0x00, 0x00] = .error (.shortPdu 0x03) ∧
      decode .wire [0x0F, 0x00, 0x04, 0x00, 0x0A] = .error (.shortPdu 0x0F) ∧
      decode .wire [0x17, 0, 0, 0, 1, 0, 0, 0, 1] = .error (.shortPdu 0x17) ∧ decode .wire [] = .error .empty := by
  decide +kernel

/-- The host's hook: a word of each kind. -/
theorem test_table_words :
    decodeTableWord 8 0x01 = some .crc16 ∧ decodeTableWord 8 0x0F = some (.wrCoils 0 0 0 []) ∧
      decodeTableWord 8 0x17 = some (.rwRegs 0 0 0 0 0 []) ∧ decodeTableWord 8 0x2A = some .rspMbap ∧
      decodeTableWord 8 0x00 = some (.undefinedCmd 0x00) := by
  decide +kernel

/-- A table word is what the next step runs: `CRC16` of the empty message (T-C1), an absent unit's request. -/
theorem test_fetch_word :
    ends (step (State.reset.withFetchWord 8 0x01)) (fun t => t.res == 0xFFFF) = true ∧
      ends (step (State.reset.withFetchWord 8 0x16)) (fun t => t.status == .discardedUnit) = true := by
  decide +kernel

/-! One step of each instruction. -/

/-- T-C6, T-C1. -/
theorem test_crc16 :
    ends (exec .crc16 (msg [0x01, 0x03, 0x00, 0x00, 0x00, 0x0A]))
        (fun t => t.res == 0xCDC5 && t.status == .ok && t.crcValid) = true ∧
      ends (exec .crc16 (msg [])) (fun t => t.res == 0xFFFF) = true := by
  decide +kernel

/-- T-C7, T-C10. -/
theorem test_crc16_laws :
    ends (exec .crc16 (msg [0x01, 0x03, 0x00, 0x00, 0x00, 0x0A, 0xC5, 0xCD])) (fun t => t.res == 0x0000) = true ∧
      ends (exec .crc16 (msg [0, 0, 0, 0, 0, 0, 0, 0])) (fun t => t.res == 0x0B40) = true := by
  decide +kernel

/-- T-L6, T-L3. -/
theorem test_lrc :
    ends (exec .lrc (msg [0x01, 0x03, 0x00, 0x00, 0x00, 0x01])) (fun t => t.res == 0x00FB) = true ∧
      ends (exec .lrc (msg [0x80, 0x80])) (fun t => t.res == 0x0000) = true := by
  decide +kernel

/-- T-H2; a message of 513 bytes does not fit (30_encoding.md R122). -/
theorem test_hexenc :
    ends (exec .hexenc (msg [0x1A, 0xB2, 0x0C])) (fun t => t.tx.bytes == [0x31, 0x41, 0x42, 0x32, 0x30, 0x43]) = true ∧
      ends (exec .hexenc (msg (List.replicate 513 0))) (fun t => t.status == .badCommand && t.tx.len == 0) = true := by
  decide +kernel

/-- T-H10, T-H11. -/
theorem test_hexdec :
    ends (exec .hexdec (frame [0x31, 0x61])) (fun t => t.pdu.bytes == [0x10]) = true ∧
      ends (exec .hexdec (frame [0x46, 0x46, 0x66])) (fun t => t.pdu.bytes == [0xFF]) = true := by
  decide +kernel

/-- T-B1, T-B4. -/
theorem test_mbapBuild :
    ends (exec .mbapBuild { msg [0x01, 0x03, 0x00, 0x00, 0x00, 0x0A] with mtid := 0x1234 })
        (fun t => t.tx.bytes == [0x12, 0x34, 0x00, 0x00, 0x00, 0x06, 0x01]) = true ∧
      ends (exec .mbapBuild zero) (fun t => t.status == .badCommand) = true := by
  decide +kernel

/-- T-B6, T-B7. -/
theorem test_mbapParse :
    ends (exec .mbapParse (frame [0xAB, 0xCD, 0x00, 0x01, 0x02, 0x00, 0xF7]))
        (fun t => t.mtid == 0xABCD && t.proto == 1 && t.mlen == 0x0200 && t.unit == 0xF7) = true ∧
      ends (exec .mbapParse (frame [0xAB, 0xCD, 0x00, 0x01, 0x02, 0x00]))
          (fun t => t.status == .wrongMessageLen && t.mtid == 0) = true := by
  decide +kernel

/-- T-E2; one byte is no message. -/
theorem test_encRtu :
    ends (exec .encRtu (msg [0x11, 0x03, 0x00, 0x6B, 0x00, 0x03]))
        (fun t => t.tx.bytes == [0x11, 0x03, 0x00, 0x6B, 0x00, 0x03, 0x76, 0x87]) = true ∧
      ends (exec .encRtu (msg [0x01])) (fun t => t.status == .badCommand) = true := by
  decide +kernel

/-- T-E2, T-Z6. -/
theorem test_encAscii :
    ends (exec .encAscii (msg [0x11, 0x03, 0x00, 0x6B, 0x00, 0x03]))
        (fun t => t.tx.bytes == [0x3A, 0x31, 0x31, 0x30, 0x33, 0x30, 0x30, 0x36, 0x42, 0x30, 0x30, 0x30, 0x33,
            0x37, 0x45] ++ [0x0D, 0x0A]) = true ∧
      ends (exec .encAscii (msg (List.replicate 510 0))) (fun t => t.status == .badCommand) = true := by
  decide +kernel

/-- T-E2. -/
theorem test_encMbap :
    ends (exec .encMbap { msg [0x11, 0x03, 0x00, 0x6B, 0x00, 0x03] with mtid := 0xFFFF })
        (fun t => t.tx.bytes == [0xFF, 0xFF, 0x00, 0x00, 0x00, 0x06, 0x11, 0x03, 0x00, 0x6B, 0x00, 0x03]) = true := by
  decide +kernel

/-- T-D5, T-D6, T-D2, T-D1. -/
theorem test_decRtu :
    ends (exec .decRtu (frame [0x01, 0x03, 0x00, 0x00, 0x00, 0x0A, 0xC5, 0xCD]))
        (fun t => t.status == .ok && t.pdu.bytes == [0x01, 0x03, 0x00, 0x00, 0x00, 0x0A]) = true ∧
      ends (exec .decRtu (frame [0x01, 0x03, 0x00, 0x00, 0x00, 0x0A, 0xCD, 0xC5]))
          (fun t => t.status == .discardedChecksum && t.pdu.len == 0) = true ∧
      ends (exec .decRtu (frame [0x01, 0x03, 0x40])) (fun t => t.status == .discardedFraming) = true ∧
      ends (exec .decRtu (frame [0x01, 0x03])) (fun t => t.status == .discardedShort) = true := by
  decide +kernel

/-- T-D16, T-D24, T-D19, T-D20. -/
theorem test_decAscii :
    ends (exec .decAscii (frame ([0x3A, 0x30, 0x31, 0x30, 0x33, 0x30, 0x30, 0x3A, 0x30, 0x31, 0x30, 0x33, 0x46,
        0x43] ++ [0x0D, 0x0A])))
        (fun t => t.status == .ok && t.pdu.bytes == [0x01, 0x03]) = true ∧
      ends (exec .decAscii (frame ([0x3A, 0x30, 0x31, 0x30, 0x33, 0x46, 0x43] ++ [0x0D, 0x0A] ++ [0x3A])))
          (fun t => t.status == .discardedShort) = true ∧
      ends (exec .decAscii (frame ([0x3A, 0x30, 0x31, 0x30, 0x33, 0x46, 0x43] ++ [0x0A, 0x0D])))
          (fun t => t.status == .discardedFraming) = true ∧
      ends (exec .decAscii (frame ([0x3A, 0x30, 0x31, 0x30, 0x33, 0x66, 0x63] ++ [0x0D, 0x0A])))
          (fun t => t.status == .discardedChecksum) = true := by
  decide +kernel

/-- T-D32, T-D33, T-D35. -/
theorem test_decMbap :
    ends (exec .decMbap (frame [0x00, 0x01, 0x00, 0x00, 0x00, 0x02, 0x01, 0x03]))
        (fun t => t.status == .ok && t.mtid == 1 && t.mlen == 2 && t.pdu.bytes == [0x01, 0x03]) = true ∧
      ends (exec .decMbap (frame [0x00, 0x01, 0x00, 0x00, 0x00, 0x03, 0x01, 0x03]))
          (fun t => t.status == .discardedFraming && t.mtid == 0) = true ∧
      ends (exec .decMbap (frame [0x00, 0x01, 0x00, 0x01, 0x00, 0x02, 0x01, 0x03]))
          (fun t => t.status == .discardedFraming) = true := by
  decide +kernel

/-- T-K5, T-K4, T-K3, T-K6. -/
theorem test_dsNew :
    ends (exec .dsNew { zero with unit := 1, len1 := 16, len3 := 65536 })
        (fun t => t.status == .ok && t.shape 1 == some (0, 16, 0, 65536)) = true ∧
      ends (exec .dsNew { zero with unit := 248, len3 := 65537 }) (fun t => t.status == .unitIdRange) = true ∧
      ends (exec .dsNew { zero with unit := 1, len1 := 16, len3 := 65537 })
          (fun t => t.status == .sizeRange && t.stores == []) = true ∧
      ends (exec .dsNew { held (blank 16) [] with unit := 1, len0 := 8 })
          (fun t => t.status == .duplicateUnit) = true := by
  decide +kernel

/-- T-K7. -/
theorem test_dsNewDefault :
    ends (exec .dsNewDefault zero)
        (fun t => t.status == .ok && t.shape 0 == some (65536, 65536, 65536, 65536)) = true := by
  decide +kernel

/-- T-K1, T-K9 (the address above the last). -/
theorem test_bankRd :
    ends (exec .bankRd { zero with unit := 1, bank := 3 }) (fun t => t.status == .noSuchUnit) = true ∧
      ends (exec .bankRd { held setB [] with unit := 1, bank := 1, addr := 16 })
          (fun t => t.status == .outOfRange) = true ∧
      ends (exec .bankRd { held setB [] with unit := 1, bank := 2, addr := 15 })
          (fun t => t.status == .ok && t.res == 0x200F) = true := by
  decide +kernel

/-- T-K11, T-K8 in a bank of 16. -/
theorem test_bankWr :
    ends (exec .bankWr { held setB [] with unit := 1, bank := 1, addr := 3, val := 0x0002 })
        (fun t => (after .bankRd t).res == 0x0000) = true ∧
      ends (exec .bankWr { held setB [] with unit := 1, bank := 3, addr := 15, val := 0xBEEF })
          (fun t => t.status == .ok && (after .bankRd t).res == 0xBEEF) = true := by
  decide +kernel

/-- T-X31, T-X32, T-X33. -/
theorem test_rdCoils :
    ends (exec (.rdCoils 0 16) (held setB [0x01])) (fun t => t.pdu.bytes == [0x01, 0x01, 0x02, 0xCD, 0x6B]) = true ∧
      ends (exec (.rdCoils 8 9) (held setB [0x01])) (fun t => t.pdu.bytes == [0x01, 0x81, 0x02]) = true ∧
      ends (exec (.rdCoils 0 0) (held setB [0x01])) (fun t => t.pdu.bytes == [0x01, 0x81, 0x03]) = true := by
  decide +kernel

/-- T-X35; a bank of length 0 (T-X5). -/
theorem test_rdDiscrete :
    ends (exec (.rdDiscrete 0 3) (held setB [0x01])) (fun t => t.pdu.bytes == [0x01, 0x02, 0x01, 0x06]) = true ∧
      ends (exec (.rdDiscrete 0 3000) (held (blank 0) [0x01])) (fun t => t.pdu.bytes == [0x01, 0x82, 0x01]) = true := by
  decide +kernel

/-- T-X36, T-X37. -/
theorem test_rdHolding :
    ends (exec (.rdHolding 2 3) (held setB [0x01]))
        (fun t => t.pdu.bytes == [0x01, 0x03, 0x06, 0x10, 0x02, 0x10, 0x03, 0x10, 0x04]) = true ∧
      ends (exec (.rdHolding 0 126) (held setB [0x01])) (fun t => t.pdu.bytes == [0x01, 0x83, 0x03]) = true := by
  decide +kernel

/-- T-X38. -/
theorem test_rdInput :
    ends (exec (.rdInput 15 1) (held setB [0x01])) (fun t => t.pdu.bytes == [0x01, 0x04, 0x02, 0x20, 0x0F]) = true ∧
      ends (exec (.rdInput 15 2) (held setB [0x01])) (fun t => t.pdu.bytes == [0x01, 0x84, 0x02]) = true := by
  decide +kernel

/-- T-X39. -/
theorem test_wrCoil :
    ends (exec (.wrCoil 10 0xFF00) (held setB [0x01]))
        (fun t => t.pdu.bytes == [0x01, 0x05, 0x00, 0x0A, 0xFF, 0x00] && bankRead t 1 .co 10 == .ok 1) = true ∧
      ends (exec (.wrCoil 10 0x0001) (held setB [0x01])) (fun t => t.pdu.bytes == [0x01, 0x85, 0x03]) = true ∧
      ends (exec (.wrCoil 16 0xFF00) (held setB [0x01])) (fun t => t.pdu.bytes == [0x01, 0x85, 0x02]) = true := by
  decide +kernel

/-- T-X40. -/
theorem test_wrReg :
    ends (exec (.wrReg 1 0xABCD) (held setB [0x01]))
        (fun t => t.pdu.bytes == [0x01, 0x06, 0x00, 0x01, 0xAB, 0xCD] && bankRead t 1 .hr 1 == .ok 0xABCD) = true ∧
      ends (exec (.wrReg 16 0) (held setB [0x01])) (fun t => t.pdu.bytes == [0x01, 0x86, 0x02]) = true := by
  decide +kernel

/-- T-X41, T-X42. -/
theorem test_wrCoils :
    ends (exec (.wrCoils 4 10 2 [0xCD, 0x01]) (held setB [0x01]))
        (fun t => t.pdu.bytes == [0x01, 0x0F, 0x00, 0x04, 0x00, 0x0A] &&
            (after (.rdCoils 0 16) t).pdu.bytes == [0x01, 0x01, 0x02, 0xDD, 0x5C]) = true ∧
      ends (exec (.wrCoils 4 10 1 [0xCD]) (held setB [0x01])) (fun t => t.pdu.bytes == [0x01, 0x8F, 0x03]) = true ∧
      ends (exec (.wrCoils 4 10 2 [0xCD]) (held setB [0x01])) (fun t => t.pdu.bytes == [0x01, 0x8F, 0x03]) = true := by
  decide +kernel

/-- T-X43, T-X44. -/
theorem test_wrRegs :
    ends (exec (.wrRegs 1 2 4 [0x00, 0x0A, 0x01, 0x02]) (held setB [0x01]))
        (fun t => t.pdu.bytes == [0x01, 0x10, 0x00, 0x01, 0x00, 0x02] &&
            (after (.rdHolding 0 4) t).pdu.bytes == [0x01, 0x03, 0x08, 0x10, 0x00, 0x00, 0x0A, 0x01, 0x02, 0x10, 0x03]) = true ∧
      ends (exec (.wrRegs 15 2 4 [0x00, 0x0A, 0x01, 0x02]) (held setB [0x01]))
          (fun t => t.pdu.bytes == [0x01, 0x90, 0x02]) = true ∧
      ends (exec (.wrRegs 1 2 3 [0x00, 0x0A, 0x01]) (held setB [0x01]))
          (fun t => t.pdu.bytes == [0x01, 0x90, 0x03]) = true := by
  decide +kernel

/-- T-X45: holding register 4 is 0x0012. -/
theorem test_maskWr :
    ends (exec (.maskWr 4 0x00F2 0x0025) (after (.wrReg 4 0x0012) (held setB [0x01])))
        (fun t => t.pdu.bytes == [0x01, 0x16, 0x00, 0x04, 0x00, 0xF2, 0x00, 0x25] &&
            bankRead t 1 .hr 4 == .ok 0x0017) = true := by
  decide +kernel

/-- T-X46 (register 1 is 0x000A), T-X47, T-X48. -/
theorem test_rwRegs :
    ends (exec (.rwRegs 0 2 0 1 2 [0xAA, 0x55]) (after (.wrReg 1 0x000A) (held setB [0x01])))
        (fun t => t.pdu.bytes == [0x01, 0x17, 0x04, 0xAA, 0x55, 0x00, 0x0A]) = true ∧
      ends (exec (.rwRegs 3 6 14 3 6 [0x00, 0xFF, 0x00, 0xFF, 0x00, 0xFF]) (held setB [0x01]))
          (fun t => t.pdu.bytes == [0x01, 0x97, 0x02] && t.stores == [(1, setB)]) = true ∧
      ends (exec (.rwRegs 0 0 0 1 2 [0xAA, 0x55]) (held setB [0x01]))
          (fun t => t.pdu.bytes == [0x01, 0x97, 0x03]) = true := by
  decide +kernel

/-- T-X49. -/
theorem test_unrecognized :
    ends (exec (.unrecognized 0x2B) (held setB [0x01])) (fun t => t.pdu.bytes == [0x01, 0xAB, 0x01]) = true ∧
      ends (exec (.unrecognized 0x83) (held setB [0x01])) (fun t => t.pdu.bytes == [0x01, 0x83, 0x01]) = true := by
  decide +kernel

/-- T-X36, T-X16, T-X19, T-X20. -/
theorem test_exec :
    ends (exec .execReq (held setB [0x01, 0x03, 0x00, 0x02, 0x00, 0x03]))
        (fun t => t.pdu.bytes == [0x01, 0x03, 0x06, 0x10, 0x02, 0x10, 0x03, 0x10, 0x04]) = true ∧
      ends (exec .execReq (held setB [0x01, 0x06, 0x00, 0x00, 0xFF, 0xFF, 0xEE]))
          (fun t => t.pdu.bytes == [0x01, 0x06, 0x00, 0x00, 0xFF, 0xFF] && bankRead t 1 .hr 0 == .ok 0xFFFF) = true ∧
      ends (exec .execReq (held setB [0x09, 0x03, 0x00, 0x00, 0x00, 0x01]))
          (fun t => t.status == .discardedUnit && t.pdu.len == 0) = true ∧
      ends (exec .execReq (held setB [0x01])) (fun t => t.status == .discardedFraming) = true := by
  decide +kernel

/-- T-X21, T-X23, T-X25. -/
theorem test_exec_short :
    ends (exec .execReq (held setB [0x01, 0x03, 0x00, 0x00, 0x00])) (fun t => t.status == .discardedFraming) = true ∧
      ends (exec .execReq (held setB [0x01, 0x17, 0x00, 0x00, 0x00, 0x01, 0x00, 0x00, 0x00, 0x01, 0x02, 0x00]))
          (fun t => t.pdu.bytes == [0x01, 0x97, 0x03]) = true ∧
      ends (exec .execReq (held setB [0x01, 0x17, 0x00, 0x00, 0x00, 0x01, 0x00, 0x00, 0x00, 0x01, 0x02, 0x00, 0x09,
          0x07, 0x07]))
          (fun t => t.pdu.bytes == [0x01, 0x17, 0x02, 0x00, 0x09]) = true := by
  decide +kernel

/-- T-S1, T-S2, T-S6. -/
theorem test_slaveRtu :
    ends (exec .slaveRtu { held setB [] with run := true, rx := buf [0x01, 0x03, 0x00, 0x02, 0x00, 0x03, 0xA4, 0x0B] })
        (fun t => t.status == .ok && t.tx.bytes == [0x01, 0x03, 0x06, 0x10, 0x02, 0x10, 0x03, 0x10, 0x04, 0xA2,
            0xE6]) = true ∧
      ends (exec .slaveRtu { held setB [] with run := true, rx := buf [0x02, 0x03, 0x00, 0x02, 0x00, 0x03, 0xA4,
          0x38] })
          (fun t => t.status == .discardedUnit && t.tx.len == 0) = true ∧
      ends (exec .slaveRtu { held setB [] with rx := buf [0x01, 0x03, 0x00, 0x02, 0x00, 0x03, 0xA4, 0x0B] })
          (fun t => t.status == .stopRequested && t.tx.len == 0) = true := by
  decide +kernel

/-- T-S4. -/
theorem test_slaveAscii :
    ends (exec .slaveAscii { held setB [] with run := true, rx := buf ([0x3A, 0x30, 0x31, 0x30, 0x33, 0x30, 0x30,
        0x30, 0x32, 0x30, 0x30, 0x30, 0x33, 0x46, 0x37] ++ [0x0D, 0x0A]) })
        (fun t => t.tx.bytes == [0x3A, 0x30, 0x31, 0x30, 0x33, 0x30, 0x36, 0x31, 0x30, 0x30, 0x32, 0x31, 0x30,
            0x30, 0x33, 0x31, 0x30, 0x30, 0x34, 0x42, 0x44] ++ [0x0D, 0x0A]) = true := by
  decide +kernel

/-- T-S5. -/
theorem test_slaveMbap :
    ends (exec .slaveMbap { held setB [] with run := true, rx := buf [0x00, 0x07, 0x00, 0x00, 0x00, 0x06, 0x01,
        0x03, 0x00, 0x02, 0x00, 0x03] })
        (fun t => t.mtid == 7 && t.txid == 0 && t.tx.bytes == [0x00, 0x07, 0x00, 0x00, 0x00, 0x09, 0x01, 0x03,
            0x06, 0x10, 0x02, 0x10, 0x03, 0x10, 0x04]) = true := by
  decide +kernel

/-- 95_test_vectors.md 2.7. -/
theorem test_nextTxid :
    ends (exec .nextTxid { zero with txid := 0x0007 }) (fun t => t.txid == 8 && t.mtid == 8 && t.res == 8) = true ∧
      ends (exec .nextTxid { zero with txid := 0xFFFF })
          (fun t => t.txid == 0 && t.mtid == 0 && t.res == 0) = true := by
  decide +kernel

/-- T-M3, T-M18, T-M20, T-M21, T-M6, T-M17. -/
theorem test_req :
    ends (exec .req { zero with unit := 1, fc := 0x0F, addr := 4, data := wbuf [1, 0, 1, 1, 0, 0, 1, 1, 1, 0] })
        (fun t => t.pdu.bytes == [0x01, 0x0F, 0x00, 0x04, 0x00, 0x0A, 0x02, 0xCD, 0x01] && t.qty == 10 &&
            t.mphase == .sending) = true ∧
      ends (exec .req { zero with fc := 0x17, data := wbuf (List.replicate 200 0) })
          (fun t => t.status == .zeroRegistersRequested && t.mphase == .errored) = true ∧
      ends (exec .req { zero with fc := 0x83 }) (fun t => t.status == .badCommand && t.mphase == .idle) = true ∧
      ends (exec .req { zero with fc := 0x03, qty := 1, mphase := .sending }) (fun t => t.status == .busy) = true ∧
      ends (exec .req { zero with unit := 1, fc := 0x17, qty := 2, data := wbuf [0xAA55] })
        (fun t => t.pdu.bytes == [0x01, 0x17, 0x00, 0x00, 0x00, 0x02, 0x00, 0x00, 0x00, 0x01, 0x02, 0xAA, 0x55] &&
            t.wqty == 1) = true ∧
      ends (exec .req { zero with fc := 0x17, qty := 125, data := wbuf (List.replicate 122 0) })
          (fun t => t.status == .tooManyRegistersRequested && t.pdu.len == 0) = true := by
  decide +kernel

/-- A quantity error of `REQ` leaves no message and no frame (60_exceptions.md R305, 46_master.md R292 (a)); a busy block
and an unknown function leave the frame alone (46_master.md R270, 90_conflicts.md C8). -/
theorem test_req_no_frame :
    ends (exec .req { zero with fc := 0x03, tx := buf [1, 2], pdu := buf [3] })
        (fun t => t.tx.len == 0 && t.pdu.len == 0 && t.mphase == .errored && t.txid == 0) = true ∧
      ends (exec .req { zero with fc := 0x18, tx := buf [1, 2] }) (fun t => t.tx.len == 2) = true ∧
      ends (exec .req { zero with fc := 0x03, tx := buf [1, 2], mphase := .sending }) (fun t => t.tx.len == 2) = true := by
  decide +kernel

/-- 95_test_vectors.md 2.7. -/
theorem test_mreqRtu :
    ends (exec .mreqRtu { zero with unit := 1, fc := 0x03, qty := 10 })
        (fun t => t.tx.bytes == [0x01, 0x03, 0x00, 0x00, 0x00, 0x0A, 0xC5, 0xCD]) = true := by
  decide +kernel

/-- 95_test_vectors.md 2.7. -/
theorem test_mreqAscii :
    ends (exec .mreqAscii { zero with unit := 1, fc := 0x03, qty := 1 })
        (fun t => t.tx.bytes == [0x3A, 0x30, 0x31, 0x30, 0x33, 0x30, 0x30, 0x30, 0x30, 0x30, 0x30, 0x30, 0x31,
            0x46, 0x42] ++ [0x0D, 0x0A]) = true := by
  decide +kernel

/-- 95_test_vectors.md 2.7: the counter, and a refused quantity. -/
theorem test_mreqMbap :
    ends (exec .mreqMbap { zero with unit := 1, fc := 0x03, qty := 10, txid := 0x1233 })
        (fun t => t.txid == 0x1234 && t.mtid == 0x1234 && t.tx.bytes == [0x12, 0x34, 0x00, 0x00, 0x00, 0x06, 0x01,
            0x03, 0x00, 0x00, 0x00, 0x0A]) = true ∧
      ends (exec .mreqMbap { zero with unit := 1, fc := 0x03, txid := 0x1233 })
          (fun t => t.status == .zeroRegistersRequested && t.txid == 0x1233 && t.tx.len == 0) = true := by
  decide +kernel

/-- T-Q1, T-Q2, T-Q4, T-Q8. -/
theorem test_rspRtu :
    ends (exec .rspRtu (flight 0x03 3 2 0 0 [0x01, 0x03, 0x06, 0x10, 0x02, 0x10, 0x03, 0x10, 0x04, 0xA2, 0xE6]))
        (fun t => t.status == .ok && t.mphase == .done && t.data.words == [0x1002, 0x1003, 0x1004]) = true ∧
      ends (exec .rspRtu (flight 0x03 3 2 0 0 [0x01, 0x03, 0x06, 0x10, 0x02, 0x10, 0x03, 0x10, 0x04, 0xA2, 0xE7]))
          (fun t => t.status == .wrongCrc && t.data.len == 0 && t.mphase == .errored) = true ∧
      ends (exec .rspRtu (flight 0x03 4 2 0 0 [0x01, 0x03, 0x06, 0x10, 0x02, 0x10, 0x03, 0x10, 0x04, 0xA2, 0xE6]))
          (fun t => t.status == .wrongMessageLen) = true ∧
      ends (exec .rspRtu (flight 0x03 3 2 0 0 [0x01, 0x83, 0x09, 0x81, 0x36]))
          (fun t => t.status == .exceptionOther) = true := by
  decide +kernel

/-- 46_master.md R280. -/
theorem test_rspRtu_echo :
    ends (exec .rspRtu (flight 0x05 0 10 1 0 [0x01, 0x05, 0x00, 0x0A, 0xFF, 0x00, 0xAC, 0x38]))
        (fun t => t.status == .ok) = true ∧
      ends (exec .rspRtu (flight 0x05 0 11 1 0 [0x01, 0x05, 0x00, 0x0A, 0xFF, 0x00, 0xAC, 0x38]))
          (fun t => t.status == .wrongResponseRegAddress) = true ∧
      ends (exec .rspRtu (flight 0x16 0 4 0x00F2 0x0024 [0x01, 0x16, 0x00, 0x04, 0x00, 0xF2, 0x00, 0x25, 0x67, 0xEE]))
          (fun t => t.status == .wrongResponseOrMask) = true ∧
      ends (exec .rspRtu (flight 0x10 3 1 0 0 [0x01, 0x10, 0x00, 0x01, 0x00, 0x02, 0x10, 0x08]))
          (fun t => t.status == .wrongResponseQuantity) = true := by
  decide +kernel

/-- T-Q20, T-Q21, T-Q23, T-Q26. -/
theorem test_rspAscii :
    ends (exec .rspAscii (flight 0x01 1 10 0 0 ([0x3A, 0x30, 0x31, 0x30, 0x31, 0x30, 0x31, 0x30, 0x31, 0x46,
        0x43] ++ [0x0D, 0x0A])))
        (fun t => t.status == .ok && t.data.words == [1]) = true ∧
      ends (exec .rspAscii (flight 0x01 1 10 0 0 ([0x3A, 0x30, 0x31, 0x30, 0x31, 0x30, 0x31, 0x30, 0x31, 0x46,
          0x44] ++ [0x0D, 0x0A])))
          (fun t => t.status == .wrongLrc) = true ∧
      ends (exec .rspAscii (flight 0x01 1 10 0 0 ([0x3A, 0x30, 0x31, 0x30, 0x31, 0x30, 0x31, 0x30, 0x31, 0x46,
          0x43] ++ [0x0D, 0x0D])))
          (fun t => t.status == .endCharsNotFound) = true ∧
      ends (exec .rspAscii (flight 0x01 1 10 0 0 ([0x3A, 0x30, 0x31, 0x38, 0x31, 0x30, 0x33, 0x37, 0x42] ++ [0x0D,
          0x0A])))
          (fun t => t.status == .exceptionIllegalDataValue) = true := by
  decide +kernel

/-- T-Q30, T-Q35, T-Q33, T-Q37. -/
theorem test_rspMbap :
    ends (exec .rspMbap { flight 0x03 1 0 0 0 [0x00, 0x08, 0x00, 0x00, 0x00, 0x05, 0x01, 0x03, 0x02, 0x00,
        0x05] with mtid := 8 })
        (fun t => t.status == .ok && t.data.words == [5]) = true ∧
      ends (exec .rspMbap { flight 0x03 1 0 0 0 [0x00, 0x09, 0x00, 0x01, 0x00, 0x06, 0x02, 0x03, 0x02, 0x00,
          0x05] with mtid := 8 })
          (fun t => t.status == .wrongTransactionId) = true ∧
      ends (exec .rspMbap { flight 0x03 1 0 0 0 [0x00, 0x08, 0x00, 0x00, 0x00, 0x06, 0x01, 0x03, 0x02, 0x00,
          0x05] with mtid := 8 })
          (fun t => t.status == .wrongMessageLen) = true ∧
      ends (exec .rspMbap { flight 0x03 1 0 0 0 [0x00, 0x08, 0x00, 0x00, 0x00, 0x02, 0x01, 0x83] with mtid := 8 })
          (fun t => t.status == .wrongMessageLen) = true := by
  decide +kernel

/-- 60_exceptions.md R316. -/
theorem test_start :
    ends (exec .start zero) (fun t => t.run && t.status == .ok) = true := by
  decide +kernel

/-- 60_exceptions.md R317. -/
theorem test_stop :
    ends (exec .stop { zero with run := true, status := .busy }) (fun t => !t.run && t.status == .ok) = true := by
  decide +kernel

/-- T-Z1. -/
theorem test_undefinedCmd :
    ends (exec (.undefinedCmd 0xFF) { zero with res := 7 })
        (fun t => t.status == .badCommand && t.res == 7) = true := by
  decide +kernel

/-! Steps. -/

/-- The stop signal, an idle block, a port access during a command, a write to `CMD` (60_exceptions.md R315, R329,
70_reset_and_hazards.md R350, 10_state.md R22). -/
theorem test_step :
    ends (step { zero with run := true, inputs := [.stop] }) (fun t => !t.run && t.inputs == []) = true ∧
      ends (step { zero with res := 7 }) (fun t => t.res == 7) = true ∧
      ends (step { zero with inputs := [.command 0x30 [], .overlap] }) (fun _ => true) = false ∧
      ends (step { zero with inputs := [.portWrite .cmd 0x30] }) (fun t => t.run && t.cmd == 0x30) = true := by
  decide +kernel

/-- Port access: `STATUS` is read-only, `CMD` reads 0, 1025 is refused as a length, `BANK` has two bits
(60_exceptions.md R321, 30_encoding.md R122, 10_state.md R21). -/
theorem test_port :
    ends (step { zero with inputs := [.portWrite .status 9] }) (fun t => t.status == .ok) = true ∧
      ends (step { zero with cmd := 5, inputs := [.portRead .cmd] }) (fun t => t.portOut == [0]) = true ∧
      ends (step { zero with inputs := [.portWrite .rxLen 1025] }) (fun t => t.rx.len == 0) = true ∧
      ends (step { zero with inputs := [.portWrite .bank 7] }) (fun t => t.bank == 3) = true := by
  decide +kernel

/-- The host port: a write and a read of an input register, an address above the bank (44_bank.md R218). -/
theorem test_host :
    ends (step { held setB [] with inputs := [.host (.write 1 .ir 3 0x1234)] })
        (fun t => t.hostOut == [.written] && bankRead t 1 .ir 3 == .ok 0x1234) = true ∧
      ends (step { held setB [] with inputs := [.host (.read 1 .hr 16)] })
        (fun t => t.hostOut == [.failed .outOfRange]) = true := by
  decide +kernel

/-- Reset (70_reset_and_hazards.md R341). -/
theorem test_reset :
    ends (step { held setB [0x01] with run := true, mphase := .sending, inputs := [.reset] })
      (fun t => !t.run && t.mphase == .idle && t.stores == [] && t.pdu.len == 0) = true := by
  decide +kernel

/-- A host write of 0x00FF to register 4 (0x0012) inside the mask write of T-X45, before its read, between its two
accesses, after them (20_memory.md R63): (0xFF AND 0xF2) OR 0x05 = 0xF7, lost, kept. -/
theorem test_mask_interleaving :
    ((List.range 3).map fun k =>
      bankRead
        (after (.maskWr 4 0x00F2 0x0025)
          { after (.wrReg 4 0x0012) (held setB [0x01]) with
            hostQ := [⟨k, .write 1 .hr 4 0x00FF⟩] }).hostFlush 1 .hr 4) =
      [.ok 0x00F7, .ok 0x0017, .ok 0x00FF] := by
  decide +kernel

/-! Witnesses: for every statement with premises, a state and operands that meet them together, at the boundaries where
its clauses meet. -/

/-- Every instruction ends in a next state: the premise `exec i s = .next t` of a statement is met by `after i s`. -/
theorem exec_after (i : Instr) (s : State) : exec i s = .next (after i s) := by cases i <;> rfl

/-- The premises of a request's statement: the unit in `PDUBUF[0]` is present, no host access falls inside. -/
theorem held_present (d : Store) (m : List Byte) :
    (held d (0x01 :: m)).store (held d (0x01 :: m)).reqUnit = some d ∧ (held d (0x01 :: m)).hostQ = [] :=
  ⟨rfl, rfl⟩

/-- The function code byte of the reply and the byte after it. -/
def reply (i : Instr) (d : Store) : List Byte := ((after i (held d [0x01])).pdu.bytes.drop 1).take 2

/-- The status and the length of the frame an encoder leaves for a message of `n` bytes. -/
def encodes (i : Instr) (n : Nat) : Status × Nat :=
  ((after i (msg (List.replicate n 0x01))).status, (after i (msg (List.replicate n 0x01))).tx.len.toNat)

/-- The status a decoder leaves for a frame. -/
def decodes (i : Instr) (f : List Byte) : Status := (after i (frame f)).status

/-- A request of function `fc` as the master's registers hold it, with `n` entries in `DATABUF`. -/
def asked (fc : Byte) (qty : Word) (n : Nat) : State :=
  { zero with unit := 1, fc := fc, qty := qty, data := wbuf (List.replicate n 1), txid := 0x00FF }

/-- A slave holding unit 1, running, with the frame `f` in `RXBUF`. -/
def slave (f : List Byte) : State := { held setB [] with run := true, rx := buf f }

theorem witness_DecodeEncodeAgree :
    (Instr.wrCoils 0xFFFF 0xFFFF 0xFF (List.replicate 255 0xFF)).wf = true ∧ (Instr.wrRegs 0 0 0xFF []).wf = true ∧
      (Instr.rwRegs 0xFFFF 0 0xFFFF 0 2 [0xAA, 0x55]).wf = true ∧ (Instr.rdCoils 0xFFFF 0).wf = true ∧
      (Instr.unrecognized 0xFF).wf = true ∧ (Instr.undefinedCmd 0xFF).wf = true ∧ Instr.rspMbap.wf = true := by
  decide +kernel

theorem witness_DecodePduExact :
    decodePdu [0x10, 0, 0, 0, 1, 2, 0xAA, 0x55, 0x77] = .ok (.wrRegs 0 1 2 [0xAA, 0x55]) ∧
      decodePdu [0x01, 0, 0, 0, 1] = .ok (.rdCoils 0 1) ∧ decodePdu [0x18] = .ok (.unrecognized 0x18) := by
  decide +kernel

theorem witness_UndefinedCommands :
    (∀ c ∈ [0x00#8, 0x07#8, 0x0B#8, 0x0F#8, 0x14#8, 0x17#8, 0x19#8, 0x1B#8], isCommand c = false) ∧
      (∀ c ∈ [0x1F#8, 0x22#8, 0x23#8, 0x27#8, 0x2B#8, 0x2F#8, 0x32#8, 0xFF#8], isCommand c = false) ∧
      ∀ c ∈ [0x01#8, 0x06#8, 0x13#8, 0x18#8, 0x1C#8, 0x1E#8, 0x2A#8, 0x31#8], isCommand c = true := by
  decide +kernel

theorem witness_CrcTableEntries :
    0 < 256 ∧ 255 < 256 ∧ crcTable.getD 255 0 = 0x4040 ∧ crcTablePrinted.length = 256 := by
  decide +kernel

/-- Well-formed states: before and after the table is built, with datastores. -/
theorem witness_wf :
    zero.wf = true ∧ (after .crc16 zero).wf = true ∧ (after .crc16 zero).crcValid = true ∧
      (held setB [0x01, 0x03]).wf = true ∧ (msg (List.replicate 1024 0)).wf = true ∧ zero.inv = true := by
  decide +kernel

theorem witness_LrcLaws : [0x01#8, 0x02#8, 0xFF#8].Perm [0xFF#8, 0x01#8, 0x02#8] := by decide

theorem witness_HexencCommand :
    encodes .hexenc 0 = (.ok, 0) ∧ encodes .hexenc 512 = (.ok, 1024) ∧ encodes .hexenc 513 = (.badCommand, 0) := by
  decide +kernel

theorem witness_HexRoundTrip :
    hexenc (hexdec [0x30, 0x41]) = [0x30, 0x41] ∧ hexenc (hexdec [0x30, 0x61]) ≠ [0x30, 0x61] ∧
      hexenc (hexdec [0x30]) ≠ [0x30] := by
  decide +kernel

theorem witness_MbapCommands :
    (msg []).pdu.bytes = [] ∧ (msg [0x01]).pdu.bytes = 0x01 :: [] ∧ (frame (List.replicate 6 0)).rx.bytes.length = 6 ∧
      (frame (List.replicate 7 0)).rx.bytes.length = 7 := by
  decide +kernel

theorem witness_MbapHeaderLaws :
    1 ≤ [0x01#8].length ∧ (frame (mbapHeader 0x1234 [0x01])).rx.bytes = mbapHeader 0x1234 [0x01] ++ [] ∧
      (frame (mbapHeader 1 (List.replicate 1024 0) ++ List.replicate 1017 0)).rx.bytes =
        mbapHeader 1 (List.replicate 1024 0) ++ List.replicate 1017 0 := by
  decide +kernel

theorem witness_MbapHeaderLaws_longest :
    1 ≤ (List.replicate 65535 0x01#8).length ∧ (List.replicate 65535 0x01#8).length ≤ 65535 := by
  rw [List.length_replicate]
  omega

theorem witness_EncRtuCommand :
    encodes .encRtu 1 = (.badCommand, 0) ∧ encodes .encRtu 2 = (.ok, 4) ∧ encodes .encRtu 1022 = (.ok, 1024) ∧
      encodes .encRtu 1023 = (.badCommand, 0) := by
  decide +kernel

theorem witness_EncAsciiCommand :
    encodes .encAscii 1 = (.badCommand, 0) ∧ encodes .encAscii 2 = (.ok, 9) ∧ encodes .encAscii 509 = (.ok, 1023) ∧
      encodes .encAscii 510 = (.badCommand, 0) := by
  decide +kernel

theorem witness_EncMbapCommand :
    encodes .encMbap 1 = (.badCommand, 0) ∧ encodes .encMbap 2 = (.ok, 8) ∧ encodes .encMbap 1018 = (.ok, 1024) ∧
      encodes .encMbap 1019 = (.badCommand, 0) := by
  decide +kernel

/-- A message of two bytes, encoded and held in `RXBUF`, on each transport; the longest messages are those of
`witness_EncRtuCommand`, `witness_EncAsciiCommand`, `witness_EncMbapCommand`. -/
theorem witness_DecodersAcceptEncoders :
    2 ≤ (msg [0x01, 0x3A]).pdu.bytes.length ∧ (msg [0x01, 0x3A]).wf = true ∧
      ∀ e ∈ [Instr.encRtu, .encAscii, .encMbap],
        (frame (after e (msg [0x01, 0x3A])).tx.bytes).wf = true ∧
          (frame (after e (msg [0x01, 0x3A])).tx.bytes).rx.bytes = (after e (msg [0x01, 0x3A])).tx.bytes := by
  decide +kernel

/-- Frames of 2, 3 and 4 bytes: [0x01, 0x7E, 0x80] has three bytes; CRC16 of [0x01, 0x03] is 0x2140. -/
theorem witness_DecRtuCommand :
    decodes .decRtu [0x01, 0x03] = .discardedShort ∧ decodes .decRtu [0x01, 0x7E, 0x80] = .discardedFraming ∧
      decodes .decRtu [0x01, 0x03, 0x40, 0x21] = .ok ∧ decodes .decRtu [0x01, 0x03, 0x21, 0x40] = .discardedChecksum := by
  decide +kernel

/-- The frame starts at the last ':'. -/
theorem witness_DecAsciiCommand_colon : startsAt (frame [0x30, 0x3A, 0x3A, 0x0D, 0x0A]).rx.bytes 2 := by
  refine .inl ⟨by decide +kernel, fun j hj => ?_⟩
  have e : (frame [0x30, 0x3A, 0x3A, 0x0D, 0x0A]).rx.bytes = [0x30, 0x3A, 0x3A, 0x0D, 0x0A] := by decide +kernel
  rw [e]
  rcases j with _ | _ | _ | _ | _ | j <;> first | omega | simp

/-- No ':' anywhere: the frame starts at 0; the empty frame. -/
theorem witness_DecAsciiCommand_no_colon :
    startsAt (frame [0x30, 0x0D, 0x0A]).rx.bytes 0 ∧ startsAt (frame []).rx.bytes 0 := by
  refine ⟨.inr ⟨rfl, fun j => ?_⟩, .inr ⟨rfl, fun j => ?_⟩⟩
  · have e : (frame [0x30, 0x0D, 0x0A]).rx.bytes = [0x30, 0x0D, 0x0A] := by decide +kernel
    rw [e]
    rcases j with _ | _ | _ | j <;> simp
  · have e : (frame []).rx.bytes = [] := by decide +kernel
    rw [e]
    simp

/-- Frames of 2 and 3 characters, without the start character, with other end characters, of two bytes, of three bytes
with a wrong and with the right LRC. -/
theorem witness_DecAsciiCommand_clauses :
    decodes .decAscii [0x0D, 0x0A] = .discardedShort ∧ decodes .decAscii [0x3A, 0x0D, 0x0A] = .discardedFraming ∧
      decodes .decAscii [0x30, 0x0D, 0x0A] = .discardedFraming ∧
      decodes .decAscii [0x3A, 0x30, 0x31, 0x46, 0x46, 0x0D, 0x0A] = .discardedFraming ∧
      decodes .decAscii [0x3A, 0x30, 0x31, 0x30, 0x33, 0x46, 0x43, 0x0D, 0x0D] = .discardedFraming ∧
      decodes .decAscii [0x3A, 0x30, 0x31, 0x30, 0x33, 0x46, 0x44, 0x0D, 0x0A] = .discardedChecksum ∧
      decodes .decAscii [0x3A, 0x30, 0x31, 0x30, 0x33, 0x46, 0x43, 0x0D, 0x0A] = .ok := by
  decide +kernel

theorem witness_DecMbapCommand :
    decodes .decMbap [0, 1] = .discardedShort ∧ decodes .decMbap [0, 1, 0] = .discardedFraming ∧
      decodes .decMbap [0, 1, 0, 0, 0, 1, 1] = .discardedFraming ∧ decodes .decMbap [0, 1, 0, 0, 0, 2, 1, 3] = .ok ∧
      decodes .decMbap [0, 1, 0, 1, 0, 2, 1, 3] = .discardedFraming ∧
      decodes .decMbap [0, 1, 0, 0, 0, 1, 1, 3] = .discardedFraming := by
  decide +kernel

/-- Unit 247 and 248, lengths 65536 and 65537, a present unit. -/
theorem witness_DsNewCommands :
    (after .dsNew { zero with unit := 247, len0 := 65536 }).shape 247 = some (65536, 0, 0, 0) ∧
      (after .dsNew { zero with unit := 247, len2 := 65537 }).status = .sizeRange ∧
      (after .dsNew { zero with unit := 248 }).status = .unitIdRange ∧
      (after .dsNewDefault { zero with unit := 247 }).shape 247 = some (65536, 65536, 65536, 65536) ∧
      (after .dsNewDefault { zero with unit := 248 }).status = .unitIdRange ∧
      (after .dsNewDefault { held setB [] with unit := 1 }).status = .duplicateUnit := by
  decide +kernel

/-- Unit 2 absent; the last address of a bank of 16 and the one after it; a host access before the command's. -/
theorem witness_BankCommands :
    (∀ x ∈ [(0, BankName.di), (1, .co), (2, .ir), (3, .hr)],
      let s := { held setB [] with unit := 1, bank := BitVec.ofNat 2 x.1, addr := 15, val := 0xFFFE }
      (s.bank.toNat, x.2) = x ∧ s.hostTurn.store s.hostTurn.unit = some setB ∧ 15 < setB.len x.2) ∧
      (State.hostTurn { held setB [] with unit := 2 }).store 2 = none ∧
      (after .bankRd { held setB [] with unit := 1, bank := 3, addr := 16 }).status = .outOfRange ∧
      (after .bankRd
        { held setB [] with unit := 1, bank := 3, addr := 2, hostQ := [⟨0, .write 1 .hr 2 0xABCD⟩] }).res = 0xABCD := by
  decide +kernel

theorem witness_BankLaws : (held setB []).store 1 = some setB ∧ 15 < setB.len .di ∧ ¬ 16 < setB.len .di ∧
    setB.written .di 2 = some 1 ∧ setB.written .di 15 = none := by
  decide +kernel

theorem witness_HostPort :
    ends (step { held setB [] with inputs := [.host (.read 1 .co 15), .stop] })
        (fun t => t.hostOut == [.value 0] && t.inputs == [.stop]) = true ∧
      ends (step { held setB [] with inputs := [.host (.read 2 .co 0)] })
        (fun t => t.hostOut == [.failed .noSuchUnit]) = true ∧
      ends (step { held setB [] with inputs := [.host (.write 1 .co 15 0xFFFF)] })
        (fun t => t.hostOut == [.written] && bankRead t 1 .co 15 == .ok 1) = true ∧
      ends (step { held setB [] with inputs := [.host (.write 1 .co 16 1)] })
        (fun t => t.hostOut == [.failed .outOfRange] && t.stores == [(1, setB)]) = true := by
  decide +kernel

/-- A PDU one byte short of its fixed part, and one with its function code alone, for each function. -/
theorem witness_ShortDiscarded :
    ∀ x ∈ [(0x01#8, 5), (0x02#8, 5), (0x03#8, 5), (0x04#8, 5), (0x05#8, 5), (0x06#8, 5), (0x0F#8, 6), (0x10#8, 6)] ++
        [(0x16#8, 7), (0x17#8, 10)],
      let m : List Byte := 0x01 :: x.1 :: List.replicate (x.2 - 2) 0x00
      (held setB m).pdu.bytes = m ∧ (List.replicate (x.2 - 2) 0x00#8).length + 1 < x.2 ∧
        (held setB m).store 0x01 = some setB ∧ (held setB [0x01, x.1]).pdu.bytes = [0x01, x.1] ∧
        (after .execReq (held setB (m ++ [0x00]))).status = .ok := by
  decide +kernel

theorem witness_ReadBits :
    ∀ x ∈ [(0x01#8, Instr.rdCoils), (0x02#8, Instr.rdDiscrete)],
      reply (x.2 0 1) (blank 0) = [x.1 ||| 0x80, 1] ∧ reply (x.2 0 0) (blank 1) = [x.1 ||| 0x80, 3] ∧
        reply (x.2 0 2001) (blank 65536) = [x.1 ||| 0x80, 3] ∧ reply (x.2 0 2000) (blank 2000) = [x.1, 250] ∧
        reply (x.2 1 2000) (blank 2000) = [x.1 ||| 0x80, 2] ∧ reply (x.2 65535 1) (blank 65536) = [x.1, 1] ∧
        reply (x.2 65535 2) (blank 65536) = [x.1 ||| 0x80, 2] := by
  decide +kernel

theorem witness_ReadRegisters :
    ∀ x ∈ [(0x03#8, Instr.rdHolding), (0x04#8, Instr.rdInput)],
      reply (x.2 0 1) (blank 0) = [x.1 ||| 0x80, 1] ∧ reply (x.2 0 0) (blank 1) = [x.1 ||| 0x80, 3] ∧
        reply (x.2 0 126) (blank 65536) = [x.1 ||| 0x80, 3] ∧ reply (x.2 0 125) (blank 125) = [x.1, 250] ∧
        reply (x.2 1 125) (blank 125) = [x.1 ||| 0x80, 2] ∧ reply (x.2 65535 1) (blank 65536) = [x.1, 2] ∧
        reply (x.2 65535 2) (blank 65536) = [x.1 ||| 0x80, 2] := by
  decide +kernel

theorem witness_WriteCoil :
    reply (.wrCoil 0 0xFF00) (blank 0) = [0x85, 1] ∧ reply (.wrCoil 0 0xFF01) (blank 1) = [0x85, 3] ∧
      reply (.wrCoil 1 0) (blank 1) = [0x85, 2] ∧ reply (.wrCoil 0 0) (blank 1) = [0x05, 0] ∧
      reply (.wrCoil 65535 0xFF00) (blank 65536) = [0x05, 0xFF] := by
  decide +kernel

theorem witness_WriteRegister :
    reply (.wrReg 0 0) (blank 0) = [0x86, 1] ∧ reply (.wrReg 1 0) (blank 1) = [0x86, 2] ∧
      reply (.wrReg 0 0) (blank 1) = [0x06, 0] ∧ reply (.wrReg 65535 0xFFFF) (blank 65536) = [0x06, 0xFF] := by
  decide +kernel

theorem witness_WriteCoils :
    reply (.wrCoils 0 1 1 [1]) (blank 0) = [0x8F, 1] ∧ reply (.wrCoils 0 0 0 []) (blank 8) = [0x8F, 3] ∧
      reply (.wrCoils 0 1969 247 (List.replicate 247 0)) (blank 65536) = [0x8F, 3] ∧
      reply (.wrCoils 0 1968 246 (List.replicate 245 0)) (blank 1968) = [0x8F, 3] ∧
      reply (.wrCoils 0 1968 246 (List.replicate 246 0)) (blank 1967) = [0x8F, 2] ∧
      reply (.wrCoils 0 9 1 [1]) (blank 16) = [0x8F, 3] ∧ reply (.wrCoils 8 8 1 [1]) (blank 16) = [0x0F, 0] ∧
      reply (.wrCoils 65535 1 1 [1]) (blank 65536) = [0x0F, 0xFF] := by
  decide +kernel

/-- The most coils one request writes. -/
theorem witness_WriteCoils_most :
    reply (.wrCoils 0 1968 246 (List.replicate 246 0)) (blank 1968) = [0x0F, 0] := by
  decide +kernel

theorem witness_WriteRegisters :
    reply (.wrRegs 0 1 2 [0, 1]) (blank 0) = [0x90, 1] ∧ reply (.wrRegs 0 0 0 []) (blank 8) = [0x90, 3] ∧
      reply (.wrRegs 0 124 248 (List.replicate 248 0)) (blank 65536) = [0x90, 3] ∧
      reply (.wrRegs 0 123 246 (List.replicate 245 0)) (blank 123) = [0x90, 3] ∧
      reply (.wrRegs 0 123 246 (List.replicate 246 0)) (blank 122) = [0x90, 2] ∧
      reply (.wrRegs 0 123 246 (List.replicate 246 0)) (blank 123) = [0x10, 0] ∧
      reply (.wrRegs 0 1 3 [0, 1, 2]) (blank 8) = [0x90, 3] ∧
      reply (.wrRegs 65535 1 2 [0, 1]) (blank 65536) = [0x10, 0xFF] := by
  decide +kernel

theorem witness_MaskWrite :
    reply (.maskWr 0 0 0) (blank 0) = [0x96, 1] ∧ reply (.maskWr 1 0 0) (blank 1) = [0x96, 2] ∧
      reply (.maskWr 0 0 0) (blank 1) = [0x16, 0] ∧ reply (.maskWr 65535 0 0) (blank 65536) = [0x16, 0xFF] := by
  decide +kernel

theorem witness_ReadWriteRegisters :
    reply (.rwRegs 0 1 0 1 2 [0, 1]) (blank 0) = [0x97, 1] ∧ reply (.rwRegs 0 0 0 1 2 [0, 1]) (blank 8) = [0x97, 3] ∧
      reply (.rwRegs 0 126 0 1 2 [0, 1]) (blank 200) = [0x97, 3] ∧ reply (.rwRegs 0 1 0 0 0 []) (blank 8) = [0x97, 3] ∧
      reply (.rwRegs 0 1 0 122 244 (List.replicate 244 0)) (blank 200) = [0x97, 3] ∧
      reply (.rwRegs 0 1 0 1 2 [0]) (blank 8) = [0x97, 3] ∧ reply (.rwRegs 7 2 0 1 2 [0, 1]) (blank 8) = [0x97, 2] ∧
      reply (.rwRegs 0 1 8 1 2 [0, 1]) (blank 8) = [0x97, 2] ∧
      reply (.rwRegs 0 125 4 121 242 (List.replicate 242 0)) (blank 125) = [0x17, 250] := by
  decide +kernel

theorem witness_Unrecognized :
    (∀ fc ∈ [0x00#8, 0x07#8, 0x0E#8, 0x11#8, 0x15#8, 0x18#8, 0x80#8, 0xFF#8],
      isFunction fc = false ∧ (held setB [0x01, fc]).pdu.bytes = (held setB [0x01, fc]).reqUnit :: fc :: []) ∧
      ∀ fc ∈ [0x01#8, 0x06#8, 0x0F#8, 0x10#8, 0x16#8, 0x17#8], isFunction fc = true := by
  decide +kernel

theorem witness_ExecCommand :
    (held setB []).pdu.bytes.length < 2 ∧ (held setB [0x01]).pdu.bytes.length < 2 ∧
      (Instr.rwRegs 0 1 0 1 2 [0, 1]).layer = .wire ∧ (held setB [0x02]).store (held setB [0x02]).reqUnit = none ∧
      (held setB [0x02, 0x03]).pdu.bytes = 0x02 :: 0x03 :: [] ∧ (held setB [0x02, 0x03]).store 0x02 = none ∧
      (held setB [0x01, 0x03]).pdu.bytes = 0x01 :: 0x03 :: [] ∧ (held setB [0x01, 0x03]).store 0x01 = some setB ∧
      decodePdu [0x03] = .error (.shortPdu 0x03) ∧ decodePdu [0x03, 0, 0, 0, 1] = .ok (.rdHolding 0 1) := by
  decide +kernel

/-- Exceptions 1, 2 and 3, with a host access scheduled inside the command. -/
theorem witness_ExceptionReplies :
    ∀ x ∈ [(Instr.unrecognized 0x2B, 1#8), (.rdCoils 16 1, 2#8), (.rwRegs 0 0 0 1 2 [0, 1], 3#8)],
      let s := { held setB [0x01] with hostQ := [⟨0, .write 1 .hr 0 7⟩] }
      x.1.layer = .wire ∧ (after x.1 s).status = .ok ∧ ((after x.1 s).pdu.bytes.getD 1 0).getLsbD 7 = true ∧
        (after x.1 s).pdu.bytes.getD 2 0 = x.2 := by
  decide +kernel

/-- A request that stores, with a host write of another element inside: premises of `WireCannotWriteInputs` and
`MemoryFrame` at the elements just below and above the coils stored to. -/
theorem witness_MemoryFrame :
    let s := { held setB [0x01] with hostQ := [⟨3, .write 1 .hr 0 7⟩] }
    hostWrites s.hostQ 1 .ir 0 = false ∧ hostWrites s.hostQ 1 .hr 0 = true ∧
      storesTo (.wrCoils 4 10 2 [0xCD, 0x01]) s 1 .co 3 = false ∧
      storesTo (.wrCoils 4 10 2 [0xCD, 0x01]) s 1 .co 4 = true ∧
      storesTo (.wrCoils 4 10 2 [0xCD, 0x01]) s 1 .co 13 = true ∧
      storesTo (.wrCoils 4 10 2 [0xCD, 0x01]) s 1 .co 14 = false ∧
      storesTo (.wrCoils 4 10 2 [0xCD, 0x01]) s 2 .co 4 = false ∧ hostWrites s.hostQ 1 .co 3 = false := by
  decide +kernel

/-- The memory frame of the commands that decode the request themselves, of `BANK_WR` and of a constructor. -/
theorem witness_MemoryFrame_commands :
    let s := { slave (after .encRtu (msg [0x01, 0x06, 0x00, 0x05, 0x12, 0x34])).tx.bytes with
      pdu := buf [0x01, 0x05, 0x00, 0x03, 0xFF, 0x00], unit := 1, bank := 2, addr := 9 }
    storesTo .slaveRtu s 1 .hr 5 = true ∧ storesTo .slaveRtu s 1 .hr 6 = false ∧ storesTo .execReq s 1 .co 3 = true ∧
      storesTo .execReq s 1 .co 4 = false ∧ storesTo .bankWr s 1 .ir 9 = true ∧ storesTo .bankWr s 1 .ir 8 = false ∧
      storesTo .dsNew s 2 .co 0 = false ∧ storesTo .crc16 s 1 .co 0 = false := by
  decide +kernel

theorem witness_WireCannotWriteInputs :
    Instr.slaveRtu ≠ .bankWr ∧ Instr.slaveRtu ≠ .dsNew ∧ Instr.slaveRtu ≠ .dsNewDefault ∧
      hostWrites [⟨0, .write 1 .ir 4 7⟩] 1 .ir 5 = false ∧ hostWrites [⟨0, .read 1 .ir 5⟩] 1 .ir 5 = false := by
  decide +kernel

/-- Stopped; a discard in decoding; a discard in execution (unit 2); a reply; on each transport. -/
theorem witness_SlaveCycle :
    ∀ x ∈ [(Instr.slaveRtu, Instr.decRtu, Instr.encRtu), (.slaveAscii, .decAscii, .encAscii),
        (.slaveMbap, .decMbap, .encMbap)],
      let ok := slave (after x.2.2 (msg [0x01, 0x03, 0x00, 0x00, 0x00, 0x01])).tx.bytes
      let other := slave (after x.2.2 (msg [0x02, 0x03, 0x00, 0x00, 0x00, 0x01])).tx.bytes
      zero.run = false ∧ ok.run = true ∧ (after x.2.1 { slave [0x01] with sphase := .decoding }).status ≠ .ok ∧
        (after x.2.1 { ok with sphase := .decoding }).status = .ok ∧ ok.wf = true ∧
        (after x.1 ok).status = .ok ∧ (after x.1 other).status = .discardedUnit ∧
        (after x.1 other).status.family = .discarded ∧ (after x.1 ok).pdu.bytes.length = 5 := by
  decide +kernel

/-- The shortest reply, an exception of 3 bytes, and the longest, 253 bytes (42_frame_encode.md R175). -/
theorem witness_SlaveReplies :
    (after .slaveMbap (slave (after .encMbap (msg [0x01, 0x2B])).tx.bytes)).pdu.bytes.length = 3 ∧
      (after .slaveMbap
        { slave (after .encMbap (msg [0x01, 0x03, 0x00, 0x00, 0x00, 0x7D])).tx.bytes with
          stores := [(1, blank 125)] }).pdu.bytes.length = 253 ∧
      (after .slaveMbap (slave (after .encMbap (msg [0x01, 0x2B])).tx.bytes)).status = .ok := by
  decide +kernel

/-- The bounds of each row of 46_master.md R273 and one above. -/
theorem witness_ReqCommand :
    (∀ x ∈ [(0x01#8, 2000), (0x02#8, 2000), (0x03#8, 125), (0x04#8, 125)],
      (after .req (asked x.1 (BitVec.ofNat 16 x.2) 0)).status = .ok ∧
        (after .req (asked x.1 (BitVec.ofNat 16 (x.2 + 1)) 0)).status = .tooManyRegistersRequested ∧
        (after .req (asked x.1 0 0)).status = .zeroRegistersRequested) ∧
      (∀ fc ∈ [0x05#8, 0x06#8, 0x16#8], (after .req (asked fc 0 0)).status = .ok) ∧
      (after .req (asked 0x17 125 121)).status = .ok ∧
      (after .req (asked 0x17 126 0)).status = .tooManyRegistersRequested ∧
      (after .req (asked 0x17 1 0)).status = .zeroRegistersRequested ∧
      (after .req (asked 0x17 1 122)).status = .tooManyRegistersRequested ∧
      (after .req (asked 0x18 1 1)).status = .badCommand ∧
      (after .req { asked 0x03 1 0 with mphase := .sending }).status = .busy ∧ (asked 0x17 125 125).data.wf = true := by
  decide +kernel

theorem witness_ReqCommand_values :
    (after .req (asked 0x10 0 123)).status = .ok ∧
      (after .req (asked 0x10 0 124)).status = .tooManyRegistersRequested ∧
      (after .req (asked 0x10 0 0)).status = .zeroRegistersRequested ∧
      (after .req (asked 0x0F 0 0)).status = .zeroRegistersRequested := by
  decide +kernel

theorem witness_ReqCommand_coils :
    (after .req (asked 0x0F 0 1968)).status = .ok ∧
      (after .req (asked 0x0F 0 1969)).status = .tooManyRegistersRequested := by
  decide +kernel

theorem witness_MreqCommands :
    (asked 0x03 1 0).wf = true ∧ (after .req (asked 0x03 1 0)).status = .ok ∧
      (after .mreqMbap (asked 0x03 1 0)).txid = 0x0100 ∧ (asked 0x03 0 0).wf = true ∧
      (after .mreqRtu (asked 0x03 0 0)).status = .zeroRegistersRequested ∧
      (after .mreqAscii (asked 0x18 0 0)).status = .badCommand ∧
      (after .mreqMbap { asked 0x03 1 0 with mphase := .sending }).status = .busy ∧
      State.wf { asked 0x03 1 0 with mphase := .sending } = true := by
  decide +kernel

/-- A request of each kind of function, on each transport. -/
theorem witness_MasterBuildsWhatSlaveParses :
    ∀ x ∈ [(Instr.mreqRtu, Instr.decRtu), (.mreqAscii, .decAscii), (.mreqMbap, .decMbap)],
      ∀ s ∈ [asked 0x03 1 0, asked 0x0F 0 9, asked 0x10 0 1, asked 0x17 1 1],
        s.wf = true ∧ (after x.1 s).status = .ok ∧ (frame (after x.1 s).tx.bytes).wf = true ∧
          (frame (after x.1 s).tx.bytes).rx.bytes = (after x.1 s).tx.bytes := by
  decide +kernel

/-- No request in flight, no response, a response one byte short of the shortest, the shortest. -/
theorem witness_RspRtuCommand :
    zero.mphase ≠ .sending ∧ (flight 0x03 1 0 0 0 []).wf = true ∧ (flight 0x03 1 0 0 0 []).mphase = .sending ∧
      (after .rspRtu (flight 0x03 1 0 0 0 [])).status = .rxTimeout ∧
      (after .rspRtu (flight 0x03 1 0 0 0 [0x01, 0x83, 0x09, 0x81])).status = .wrongMessageLen ∧
      (after .rspRtu (flight 0x03 1 0 0 0 [0x01, 0x83, 0x09, 0x81, 0x36])).status = .exceptionOther ∧
      (after .rspRtu { flight 0x03 1 0 0 0 [0x01, 0x83, 0x09, 0x81, 0x36] with unit := 2 }).status =
        .wrongResponseAddress := by
  decide +kernel

/-- No response, 10 characters, 11 characters, and each envelope error of 46_master.md R289. -/
theorem witness_RspAsciiCommand :
    let f : List Byte := [0x3A, 0x30, 0x31, 0x38, 0x31, 0x30, 0x33, 0x37, 0x42, 0x0D, 0x0A]
    let s := flight 0x01 1 0 0 0
    (s []).mphase = .sending ∧ (after .rspAscii (s [])).status = .rxTimeout ∧
      (after .rspAscii (s (f.take 10))).status = .wrongMessageLen ∧
      (after .rspAscii (s f)).status = .exceptionIllegalDataValue ∧
      (after .rspAscii (s (f.set 0 0x30))).status = .startCharNotFound ∧
      (after .rspAscii (s (f.set 10 0x0D))).status = .endCharsNotFound ∧
      (after .rspAscii (s (f.set 8 0x43))).status = .wrongLrc ∧
      (after .rspAscii { s f with unit := 2 }).status = .wrongResponseAddress := by
  decide +kernel

/-- No response, 8 bytes, 9 bytes, and each envelope error of 46_master.md R290. -/
theorem witness_RspMbapCommand :
    let f : List Byte := [0x00, 0x00, 0x00, 0x00, 0x00, 0x03, 0x01, 0x83, 0x02]
    let s := flight 0x03 1 0 0 0
    (s []).mphase = .sending ∧ (after .rspMbap (s [])).status = .rxTimeout ∧
      (after .rspMbap (s (f.take 8))).status = .wrongMessageLen ∧
      (after .rspMbap (s f)).status = .exceptionIllegalDataAddress ∧
      (after .rspMbap (s (f.set 1 0x01))).status = .wrongTransactionId ∧
      (after .rspMbap (s (f.set 3 0x01))).status = .wrongProtocolId ∧
      (after .rspMbap (s (f.set 5 0x04))).status = .wrongMessageLen ∧
      (after .rspMbap { s f with unit := 2 }).status = .wrongResponseAddress := by
  decide +kernel

/-- The checks of 46_master.md R279, each clause of `Checked`: the exception codes 1 to 5, the reading functions at their
byte counts, the four echoes with a difference in each field, a short echo, `FC` changed to no function (log entry 12),
`QTY` raised above 2000 (log entry 11). -/
theorem witness_Checked :
    let judged (s : State) (p : List Byte) : Status :=
      (after .rspMbap
        { s with rx := buf ([0, 0, 0, 0, 0, BitVec.ofNat 8 (p.length + 1), 0x01] ++ p) }).status
    (judged (flight 0x03 1 0 0 0 []) [0x83, 1] = .exceptionIllegalFunction ∧
      judged (flight 0x03 1 0 0 0 []) [0x83, 4] = .exceptionSlaveDeviceFailure ∧
      judged (flight 0x03 1 0 0 0 []) [0x83, 5] = .exceptionOther) ∧
    (judged (flight 0x01 8 0 0 0 []) [0x01, 1, 0xFF] = .ok ∧
      judged (flight 0x02 9 0 0 0 []) [0x02, 1, 0xFF] = .wrongMessageLen ∧
      judged (flight 0x03 1 0 0 0 []) [0x03, 2, 0] = .wrongMessageLen ∧
      judged (flight 0x17 1 0 0 0 []) [0x17, 2, 0, 5] = .ok ∧
      judged (flight 0x01 2001 0 0 0 []) ([0x01, 251] ++ List.replicate 251 0) = .badCommand ∧
      judged (flight 0x01 2000 0 0 0 []) ([0x01, 250] ++ List.replicate 250 0) = .ok) ∧
    (judged (flight 0x05 0 10 1 0 []) [0x05, 0, 10, 0xFF] = .wrongMessageLen ∧
      judged (flight 0x05 0 10 1 0 []) [0x05, 0, 10, 0xFF, 0] = .ok ∧
      judged (flight 0x05 0 10 1 0 []) [0x05, 0, 10, 0, 0] = .wrongResponseValue ∧
      judged (flight 0x06 0 10 1 0 []) [0x06, 0, 11, 0, 1] = .wrongResponseRegAddress ∧
      judged (flight 0x06 0 10 1 0 []) [0x06, 0, 10, 0, 1] = .ok) ∧
    (judged (flight 0x0F 3 10 1 0 []) [0x0F, 0, 10, 0, 3] = .ok ∧
      judged (flight 0x10 3 10 1 0 []) [0x10, 0, 10, 0, 4] = .wrongResponseQuantity ∧
      judged (flight 0x16 0 10 1 2 []) [0x16, 0, 10, 0, 1, 0, 2] = .ok ∧
      judged (flight 0x16 0 10 1 2 []) [0x16, 0, 10, 0, 2, 0, 2] = .wrongResponseAndMask ∧
      judged (flight 0x18 0 10 1 2 []) [0x16, 0, 10, 0, 2, 0, 2] = .badCommand) := by
  decide +kernel

/-- A request, the slave that answers it and its reply, on each transport: a read, and a write of an absent element. -/
theorem witness_LoopBack :
    ∀ x ∈ [(Instr.mreqRtu, Instr.slaveRtu, Instr.rspRtu), (.mreqAscii, .slaveAscii, .rspAscii),
        (.mreqMbap, .slaveMbap, .rspMbap)],
      ∀ s ∈ [asked 0x03 16 0, asked 0x10 0 17],
        let t := after x.1 s
        let r := slave t.tx.bytes
        let r' := after x.2.1 r
        s.wf = true ∧ t.status = .ok ∧ r.wf = true ∧ r.rx.bytes = t.tx.bytes ∧ r.store s.unit ≠ none ∧ r.run = true ∧
          (buf r'.tx.bytes).wf = true ∧ (buf r'.tx.bytes).bytes = r'.tx.bytes := by
  decide +kernel

theorem witness_MaskWriteInterleaving :
    ∀ k ∈ [0, 1, 2, 3],
      let s := { held setB [0x01] with hostQ := [⟨k, .write 1 .hr 15 0xBEEF⟩] }
      bankRead s s.reqUnit .hr 15 = .ok 0x100F ∧ s.hostQ = [⟨k, .write s.reqUnit .hr 15 0xBEEF⟩] := by
  decide +kernel

theorem witness_ResetState :
    State.inputs { held setB [] with inputs := [.reset, .stop] } = .reset :: [.stop] := rfl

/-- A well-formed state with a command and a host access inside it, and its next state. -/
theorem witness_StepKeepsInv :
    let s := { held setB [0x01, 0x06, 0x00, 0x0F, 0xAA, 0x55] with
      inputs := [.command 0x18 [⟨0, .write 1 .co 15 1⟩, ⟨5, .read 1 .hr 15⟩]] }
    s.inv = true ∧ ends (step s) (fun t => t.inv && t.hostOut == [.written, .value 0xAA55]) = true := by
  decide +kernel

/-- The premises of the last clause: unit 1 present, a constructor's command for it. -/
theorem witness_DatastoreLifetime_kept :
    let s := { held setB [] with unit := 1, inputs := [.command 0x11 []] }
    s.shape 1 ≠ none ∧ commandOf (.command 0x11 []) = some (0x11, []) ∧
      ends (step s) (fun t => t.store 1 == some setB) = true := by
  decide +kernel

/-- A unit created, at another unit's presence; the premise that the input is no reset. -/
theorem witness_DatastoreLifetime :
    let s := { held setB [] with unit := 2, inputs := [.command 0x11 []] }
    s.shape 1 = some (16, 16, 16, 16) ∧ s.shape 2 = none ∧
      ends (step s) (fun t => t.shape 1 == s.shape 1 && t.shape 2 == some (65536, 65536, 65536, 65536)) = true ∧
      s.inputs.head? ≠ some .reset := by
  decide +kernel

theorem witness_DatastoreLifetime_no_reset :
    ∀ rest, State.inputs { held setB [] with inputs := [.command 0x11 []] } ≠ .reset :: rest := by
  intro rest h
  cases h

/-- A command with a host access inside it, one started through a port write of 32 bits, an undefined one; what follows
does not overlap the command. -/
theorem witness_StepRunsInstruction :
    let during : List Slot := [⟨0, .read 1 .hr 0⟩]
    State.inputs { held setB [] with inputs := [.command 0x18 during, .stop, .overlap] } =
        .command 0x18 during :: [.stop, .overlap] ∧
      State.inputs { zero with inputs := [.portWrite .cmd 0x12345618] } = .portWrite .cmd 0x12345618 :: [] ∧
      0x18#8 = (0x12345618#32).setWidth 8 ∧ overlapped [] = false ∧ overlapped [.stop, .overlap] = false ∧
      decode .command [0x18] = .ok .execReq ∧ decode .command [0xFF] = .ok (.undefinedCmd 0xFF) := by
  decide +kernel

theorem witness_StepOutside :
    commandOf (.command 0x30 []) = some (0x30, []) ∧ commandOf (.portWrite .cmd 0x30) = some (0x30, []) ∧
      step { zero with inputs := [.overlap] } = .fault .portOverlap ∧
      step { zero with inputs := [.portWrite .cmd 0x30, .overlap] } = .fault .portOverlap :=
  ⟨rfl, rfl, rfl, rfl⟩

/-- Every register of the access column: a write above its width, read back; a length at its capacity and one above. -/
theorem witness_PortAccess :
    (∀ x ∈ [(PortReg.fc, 8), (.unit, 8), (.bank, 2), (.addr, 16), (.qty, 16), (.val, 16), (.val2, 16), (.waddr, 16)] ++
        [(PortReg.wqty, 16), (.mtid, 16), (.len0, 32), (.len1, 32), (.len2, 32), (.len3, 32)],
      ends (step { zero with inputs := [.portWrite x.1 0xFFFFFFFF] })
        (fun t => (readPort t x.1).toNat == 2 ^ x.2 - 1) = true) ∧
      (∀ x ∈ [(PortReg.rxLen, 1024), (.pduLen, 1024), (.dataLen, 2000)],
        ends (step { zero with inputs := [.portWrite x.1 (BitVec.ofNat 32 x.2)] })
            (fun t => (readPort t x.1).toNat == x.2) = true ∧
          ends (step { zero with inputs := [.portWrite x.1 (BitVec.ofNat 32 (x.2 + 1))] })
            (fun t => (readPort t x.1).toNat == 0) = true) ∧
      ∀ r ∈ [PortReg.status, .res, .proto, .mlen, .txLen],
        ends (step { zero with inputs := [.portWrite r 1] }) (fun t => (readPort t r).toNat == 0) = true := by
  decide +kernel

end Sys2Proof.Tests
end

section
/-! PROOFS. How an instruction and a step end: every instruction answers a next state, and a step is nothing, one input
of the outside world, or one command with the host accesses left over made after it (10_state.md R22, R24). -/

namespace Sys2Proof.Machine

/-- No instruction stops the machine (60_exceptions.md R308). -/
theorem exec_total (i : Instr) (s : State) : ∃ t, exec i s = .next t := by
  cases i <;> exact ⟨_, rfl⟩

/-- A request PDU is dispatched to its function (45_request_exec.md R233). -/
theorem exec_wire {i : Instr} (hi : i.layer = .wire) (s : State) : exec i s = .next (runRequest i s) := by
  obtain ⟨f, hf, -⟩ := wire_serve i hi
  exact (hf s).1

/-- A request PDU ends where its function leaves the state. -/
theorem eq_runRequest_of_exec {i : Instr} (hi : i.layer = .wire) {s t : State} (h : exec i s = .next t) :
    t = runRequest i s := by
  rw [exec_wire hi] at h
  injection h with h
  exact h.symm

/-- What a request PDU decodes to is an instruction of the wire layer. -/
theorem layer_of_decodePdu {bs : List Byte} {i : Instr} (h : decodePdu bs = .ok i) : i.layer = .wire := by
  cases bs with
  | nil => cases h
  | cons fc rest =>
    simp only [decodePdu] at h
    split at h
    case h_11 => split at h <;> cases h; rfl
    all_goals cases h; rfl

/-- The only access that is undefined starts no command. -/
theorem ne_overlap_of_commandOf {i : Input} {c : Byte × List Slot} (h : commandOf i = some c) : i ≠ .overlap := by
  rintro rfl
  cases h

/-- An input that starts no command is applied (log entry 1). -/
theorem step_of_input {s : State} {i : Input} {rest : List Input} (h : s.inputs = i :: rest)
    (hc : commandOf i = none) (hi : i ≠ .overlap) : step s = .next (applyInput i { s with inputs := rest }) := by
  simp only [step, h, hc]

/-- An input that starts a command runs it (10_state.md R22). -/
theorem step_of_command {s : State} {i : Input} {rest : List Input} {code : Byte} {during : List Slot}
    (h : s.inputs = i :: rest) (hc : commandOf i = some (code, during)) (ho : overlapped rest = false) :
    step s = runCommand (s.started code during rest) := by
  have hi : i ≠ .overlap := ne_overlap_of_commandOf hc
  simp only [step, h, hc, ho, Bool.false_eq_true, if_false]

/-- A command runs the instruction its code decodes to, then the host accesses left over. -/
theorem runCommand_of_exec {s t : State} (h : exec (decodeCmd s.cmd) s = .next t) :
    runCommand s = .next t.hostFlush := by
  simp only [runCommand, h]

/-- Everything a step that answers a next state can do. -/
theorem step_cases {s t : State} (h : step s = .next t) :
    (s.inputs = [] ∧ t = s) ∨
      (∃ i rest, s.inputs = i :: rest ∧ commandOf i = none ∧ t = applyInput i { s with inputs := rest }) ∨
      ∃ i rest code during r, s.inputs = i :: rest ∧ commandOf i = some (code, during) ∧
        exec (decodeCmd code) (s.started code during rest) = .next r ∧ t = r.hostFlush := by
  cases hl : s.inputs with
  | nil => simp only [step, hl] at h; cases h; exact .inl ⟨rfl, rfl⟩
  | cons i rest =>
    by_cases hi : i = .overlap
    · subst hi; simp only [step, hl] at h; cases h
    cases hc : commandOf i with
    | none =>
      rw [step_of_input hl hc hi] at h
      cases h
      exact .inr (.inl ⟨i, rest, rfl, hc, rfl⟩)
    | some c =>
      obtain ⟨code, during⟩ := c
      cases ho : overlapped rest with
      | true =>
        simp only [step, hl, hc, ho, if_true] at h
        cases h
      | false =>
        obtain ⟨r, hr⟩ := exec_total (decodeCmd code) (s.started code during rest)
        rw [step_of_command hl hc ho, runCommand_of_exec hr] at h
        cases h
        exact .inr (.inr ⟨i, rest, code, during, r, rfl, hc, hr, rfl⟩)

/-- Settles O58: the input starts a command (`step_of_command`), and the instruction it decodes to answers a next state
(`exec_total`). -/
theorem stepRunsInstruction : Obligations.StepRunsInstruction := by
  intro s i rest code during ins hin hi ho hd
  obtain rfl : decodeCmd code = ins := by simpa [decode] using hd
  have hc : commandOf i = some (code, during) := by
    rcases hi with rfl | ⟨rfl, v, rfl, rfl⟩ <;> rfl
  obtain ⟨t, ht⟩ := exec_total (decodeCmd code) (s.started code during rest)
  exact ⟨t, ht, (step_of_command hin hc ho).trans (runCommand_of_exec ht)⟩

/-- Settles O54: the reset event is an input that starts no command, and leaves what `State.reset` lists. -/
theorem resetState : Obligations.ResetState := by
  intro s rest hin
  refine ⟨_, step_of_input hin rfl (by simp), ?_⟩
  and_intros <;> intros <;> rfl

end Sys2Proof.Machine
end

section
/-! PROOFS. What the shared operations do, said once: the table build, a frame decoder, a request, `EXEC`, the slave
cycle, building a request, judging a response. The composite commands have one lemma each that carries a relation of
states, or a property of the end state, from their parts to the whole. -/

namespace Sys2Proof.Machine

/-- The table build writes the table, or nothing (40_checksum.md R133). -/
theorem State.ensureCrc_cases (s : State) : s.ensureCrc = s ∨ s.ensureCrc = s.setCrc crcTable true := by
  unfold State.ensureCrc
  split
  · exact .inl rfl
  · exact .inr rfl

/-! Frame decoders (43_frame_decode.md). -/

/-- `t` is what a frame decoder leaves of `s`: a discard, or a message of at most `n` bytes accepted. -/
def Decoded (n : Nat) (s t : State) : Prop := (∃ e, t = s.discard e) ∨ ∃ m, m.length ≤ n ∧ t = s.accept m

/-- The text from the last ':' on is no longer than the whole (43_frame_decode.md R189). -/
theorem length_fromLastColon : ∀ {l r : List Byte}, fromLastColon l = some r → r.length ≤ l.length
  | [], _, h => by cases h
  | c :: t, r, h => by
    simp only [fromLastColon] at h
    split at h
    · rename_i k
      cases h
      exact Nat.le_succ_of_le (length_fromLastColon k)
    · split at h <;> cases h
      exact Nat.le_refl _

/-- Everything `DEC_RTU` can do (43_frame_decode.md R186). -/
theorem runDecRtu_decoded (s : State) :
    Decoded s.rx.bytes.length s (runDecRtu s) ∨ Decoded s.rx.bytes.length s.ensureCrc (runDecRtu s) := by
  simp only [runDecRtu, decRtuFrame]
  split
  · exact .inl (.inl ⟨_, rfl⟩)
  split
  · exact .inl (.inl ⟨_, rfl⟩)
  split
  · exact .inr (.inl ⟨_, rfl⟩)
  · exact .inr (.inr ⟨_, by simp, rfl⟩)

/-- Everything `DEC_ASCII` can do (43_frame_decode.md R188). -/
theorem runDecAscii_decoded (s : State) : Decoded s.rx.bytes.length s (runDecAscii s) := by
  have hf : ((fromLastColon s.rx.bytes).getD s.rx.bytes).length ≤ s.rx.bytes.length := by
    cases h : fromLastColon s.rx.bytes with
    | none => exact Nat.le_refl _
    | some r => exact length_fromLastColon h
  simp only [runDecAscii, decAsciiFrame]
  split
  · exact .inl ⟨_, rfl⟩
  split
  · exact .inl ⟨_, rfl⟩
  split
  · exact .inl ⟨_, rfl⟩
  split
  · exact .inl ⟨_, rfl⟩
  split
  · exact .inl ⟨_, rfl⟩
  · refine .inr ⟨_, ?_, rfl⟩
    simp only [List.length_dropLast, length_hexdec, List.length_take, List.length_drop]
    omega

/-- Everything `DEC_MBAP` can do (43_frame_decode.md R191): the header registers move on an accepted frame alone. -/
theorem runDecMbap_decoded (s : State) :
    Decoded s.rx.bytes.length s (runDecMbap s) ∨
      ∃ i p l, Decoded s.rx.bytes.length { s with mtid := i, proto := p, mlen := l } (runDecMbap s) := by
  simp only [runDecMbap, decMbapFrame]
  split
  · exact .inl (.inl ⟨_, rfl⟩)
  split
  · exact .inl (.inl ⟨_, rfl⟩)
  split
  · exact .inl (.inl ⟨_, rfl⟩)
  split
  · exact .inl (.inl ⟨_, rfl⟩)
  · exact .inr ⟨_, _, _, .inr ⟨_, by simp, rfl⟩⟩

/-! Requests (45_request_exec.md). -/

/-- A reply PDU has at most 252 bytes (30_encoding.md R87). -/
theorem Answered.length_replyPdu {s : State} {fc : Byte} {r : State × Answer} (h : Answered s fc r) :
    (replyPdu fc r.2).length ≤ 252 := by
  rcases h with ⟨c, -, rfl⟩ | ⟨p, hr, -, hp, -⟩
  · simp [replyPdu, exceptionReply]
  · rw [hr]
    exact Nat.succ_le_succ hp

/-- Everything a request can do (45_request_exec.md R230): an absent unit is a discard; else the request's elements are
accessed and a reply of at most 252 bytes is left. -/
theorem runRequest_cases {i : Instr} (hi : i.layer = .wire) (s : State) :
    runRequest i s = s.discard .discardedUnit ∨
      ∃ t r, SeqStep (requestMarks i s.reqUnit) (s.setSphase .dispatching) t ∧ r.length ≤ 252 ∧
        runRequest i s = t.reply s.reqUnit r := by
  obtain ⟨f, hf, hspec⟩ := wire_serve i hi
  cases hs : s.store s.reqUnit with
  | none => exact .inl ((hf s).2.trans (serve_absent _ f hs))
  | some d =>
    obtain ⟨ha, hk⟩ := hspec s.reqUnit d (s.setSphase .dispatching) hs
    exact .inr ⟨_, _, hk, ha.length_replyPdu, (hf s).2.trans (serve_present _ f hs)⟩

/-- `EXEC` discards the message or runs the request it decodes to (45_request_exec.md R230). -/
theorem runExec_cases (s : State) :
    (∃ e, runExec s = s.discard e) ∨ ∃ i, decodePdu s.pdu.bytes.tail = .ok i ∧ runExec s = runRequest i s := by
  simp only [runExec]
  split
  · rename_i hb
    split
    · exact .inl ⟨_, rfl⟩
    split
    · exact .inl ⟨_, rfl⟩
    · rename_i hd
      exact .inr ⟨_, by rw [hb]; exact hd, rfl⟩
  · exact .inl ⟨_, rfl⟩

/-! Element access by command (44_bank.md). -/

/-- `BANK_RD` gives the host its turn, then writes `RES` and `STATUS` (44_bank.md R216). -/
theorem runBankRd_eq (s : State) : ∃ v e, runBankRd s = (s.hostTurn.setRes v).setStatus e := by
  simp only [runBankRd, seqRead]
  split
  · rename_i h
    obtain ⟨rfl, -⟩ := Prod.mk.inj h
    exact ⟨_, _, rfl⟩
  · rename_i h
    obtain ⟨rfl, -⟩ := Prod.mk.inj h
    exact ⟨s.hostTurn.res, _, rfl⟩

/-- `BANK_WR` is one element write of the sequencer, then the write of `STATUS` (44_bank.md R217). -/
theorem runBankWr_eq (s : State) :
    ∃ e, runBankWr s = (seqWrite s.unit (bankOfSel s.bank) s.addr.toNat s.val s).1.setStatus e := by
  simp only [runBankWr]
  split <;> (rename_i h; rw [h]; exact ⟨_, rfl⟩)

/-- Construction writes `STATUS`, after it made a datastore of four lengths up to 65536 for a unit up to 247
(44_bank.md R210), or after nothing. -/
theorem makeStore_cases (l0 l1 l2 l3 : Nat) (s : State) :
    (∃ e, makeStore l0 l1 l2 l3 s = s.setStatus e) ∨
      (s.unit.toNat < 248 ∧ (l0 ≤ 65536 ∧ l1 ≤ 65536 ∧ l2 ≤ 65536 ∧ l3 ≤ 65536) ∧
        makeStore l0 l1 l2 l3 s =
          (s.setStores (assocPut s.stores s.unit.toNat (newStore l0 l1 l2 l3))).setStatus .ok) := by
  simp only [makeStore]
  split
  · exact .inl ⟨_, rfl⟩
  split
  · exact .inl ⟨_, rfl⟩
  split
  · exact .inl ⟨_, rfl⟩
  · exact .inr ⟨by omega, by omega, rfl⟩

/-! The composite commands. -/

/-- A relation that composes and that every part of a slave cycle respects holds from its start to its end
(45_request_exec.md R254). -/
theorem slaveCycle_rel {R : State → State → Prop} {dec enc : State → State}
    (trans : ∀ {a b c}, R a b → R b c → R a c) (status : ∀ s e, R s (s.setStatus e))
    (phase : ∀ s p, R s (s.setSphase p)) (noFrame : ∀ s, R s (s.setTx s.tx.clear)) (lost : ∀ s, R s s.loseTx)
    (decodes : ∀ s, R s (dec s)) (executes : ∀ s, R s (runExec s)) (encodes : ∀ s, R s (enc s)) (s : State) :
    R s (slaveCycle dec enc s) := by
  have discards : ∀ t, R t t.noReply := fun t => trans (lost t) (phase _ _)
  simp only [slaveCycle]
  split
  · exact trans (noFrame s) (status _ _)
  have h1 : R s (dec (s.setSphase .decoding)) := trans (phase s _) (decodes _)
  split
  · exact trans h1 (discards _)
  have h2 := trans h1 (executes _)
  split
  · exact trans h2 (discards _)
  · exact trans h2 (trans (phase _ .replying) (trans (encodes _) (trans (phase _ _) (status _ _))))

/-- How building a request ends (46_master.md R272): refused, a quantity error, or built. -/
theorem runReq_ind {P : State → Prop} {s : State} (refused : ∀ e, P (s.setStatus e))
    (failed : ∀ e, P ((((s.setPdu s.pdu.clear).setTx s.tx.clear).setMphase .errored).setStatus e))
    (built : ∀ i, buildRequest (s.setMphase .building) = .ok i →
      P (((s.setQuantities.setPdu (s.pdu.write (s.unit :: encode i))).setMphase .sending).setStatus .ok)) :
    P (runReq s) := by
  have quantities : (s.setMphase .building).setQuantities = s.setQuantities.setMphase .building := by
    unfold State.setQuantities
    simp only [State.setMphase_fc]
    split <;> rfl
  simp only [runReq]
  split
  · exact refused _
  split
  · exact refused _
  split
  · exact failed _
  · rename_i hb
    rw [quantities]
    exact built _ hb

/-- A relation that composes and that the parts of a framed request respect holds of the whole (46_master.md R285). -/
theorem masterRequest_rel {R : State → State → Prop} {frame : State → State}
    (trans : ∀ {a b c}, R a b → R b c → R a c) (noFrame : ∀ s, R s (s.setTx s.tx.clear))
    (requests : ∀ s, R s (runReq s)) (frames : ∀ s, R s (frame s)) (s : State) : R s (masterRequest frame s) := by
  simp only [masterRequest]
  split
  · exact requests s
  split
  · exact trans (requests s) (noFrame _)
  · exact trans (requests s) (frames _)

/-- How judging a response ends (46_master.md R276): refused, an envelope error, or the outcome of the check. -/
theorem judge_ind {P : State → Prop} {prep : State → State} {env : State → List Byte → Envelope} {s : State}
    (refused : P (s.setStatus .badCommand))
    (failed : ∀ t e, t = s.setMphase .validating ∨ t = prep (s.setMphase .validating) →
      P ((t.setPdu t.pdu.clear).rspFail e))
    (judged : ∀ t m, t = prep (s.setMphase .validating) → env t s.rx.bytes = .ok m →
      P (conclude s (t.setPdu (t.pdu.write m)) (verdict t m.tail))) :
    P (judge prep env s) := by
  simp only [judge]
  split
  · exact refused
  split
  · exact failed _ _ (.inl rfl)
  split
  · exact failed _ _ (.inr rfl)
  · rename_i hm
    exact judged _ _ rfl hm

/-- A failed response ends in `Errored`, with `DATABUF` lost or left (46_master.md R276). -/
theorem State.rspFail_cases (s : State) (e : Status) :
    s.rspFail e = (s.setMphase .errored).setStatus e ∨ s.rspFail e = (s.loseData.setMphase .errored).setStatus e := by
  unfold State.rspFail
  split
  · exact .inr rfl
  · exact .inl rfl

end Sys2Proof.Machine
end

section
/-! PROOFS. The register frame of every instruction (10_state.md R22): a frame composes and holds of the write of
`STATUS`; the frame of each family, then the frames of the composite commands from those of their parts. -/

namespace Sys2Proof.Machine

/-- What an instruction leaves alone is left alone by doing nothing. -/
theorem Keeps.refl (i : Instr) (s : State) : Keeps i s s := by
  cases i <;> rfl

/-- What two runs leave alone, one after the other, is left alone. -/
theorem Keeps.trans {i : Instr} {s t r : State} (h : Keeps i s t) (k : Keeps i t r) : Keeps i s r := by
  cases i <;> (have h : t = _ := h; rw [h] at k; exact k)

/-- Every instruction may write `STATUS` (60_exceptions.md R301). -/
theorem Keeps.setStatus (i : Instr) (s : State) (e : Status) : Keeps i s (s.setStatus e) := by
  cases i <;> rfl

/-- The eleven request rows and `EXEC` have one frame (45_request_exec.md R230). -/
theorem keeps_wire {i : Instr} (hi : i.layer = .wire) (s t : State) : Keeps i s t ↔ Keeps .execReq s t := by
  cases i <;> simp only [Instr.layer, reduceCtorEq] at hi <;> exact Iff.rfl

/-! Checksums, codecs and envelopes. -/

theorem runCrc16_keeps (s : State) : Keeps .crc16 s (runCrc16 s) := by
  rcases s.ensureCrc_cases with h | h <;> rw [runCrc16, h] <;> rfl

theorem runHexenc_keeps (s : State) : Keeps .hexenc s (runHexenc s) := by
  unfold runHexenc
  split <;> rfl

theorem runMbapBuild_keeps (s : State) : Keeps .mbapBuild s (runMbapBuild s) := by
  unfold runMbapBuild
  split <;> rfl

theorem runMbapParse_keeps (s : State) : Keeps .mbapParse s (runMbapParse s) := by
  unfold runMbapParse
  split <;> rfl

theorem runEncRtu_keeps (s : State) : Keeps .encRtu s (runEncRtu s) := by
  unfold runEncRtu
  split
  · rfl
  · rcases s.ensureCrc_cases with h | h <;> rw [h] <;> rfl

theorem runEncAscii_keeps (s : State) : Keeps .encAscii s (runEncAscii s) := by
  unfold runEncAscii
  split <;> rfl

theorem runEncMbap_keeps (s : State) : Keeps .encMbap s (runEncMbap s) := by
  unfold runEncMbap
  split <;> rfl

/-! Frame decoders. -/

/-- A decoder writes the message, `STATUS`, and on a discard `SPHASE` (60_exceptions.md R307). -/
theorem Decoded.keeps {n : Nat} {s t : State} (h : Decoded n s t) : Keeps .decAscii s t := by
  rcases h with ⟨e, rfl⟩ | ⟨m, -, rfl⟩ <;> rfl

theorem runDecRtu_keeps (s : State) : Keeps .decRtu s (runDecRtu s) := by
  rcases runDecRtu_decoded s with h | h
  · have hk : runDecRtu s = _ := h.keeps
    rw [hk]; rfl
  · have hk : runDecRtu s = _ := h.keeps
    rw [hk]
    rcases s.ensureCrc_cases with hc | hc <;> rw [hc] <;> rfl

theorem runDecMbap_keeps (s : State) : Keeps .decMbap s (runDecMbap s) := by
  rcases runDecMbap_decoded s with h | ⟨i, p, l, h⟩
  · have hk : runDecMbap s = _ := h.keeps
    rw [hk]; rfl
  · have hk : runDecMbap s = _ := h.keeps
    rw [hk]; rfl

/-! Banks and requests. -/

theorem runBankRd_keeps (s : State) : Keeps .bankRd s (runBankRd s) := by
  obtain ⟨v, e, h⟩ := runBankRd_eq s
  have hf := (hostTurn_step s).1.frame
  rw [h, hf]; rfl

theorem runBankWr_keeps (s : State) : Keeps .bankWr s (runBankWr s) := by
  obtain ⟨e, h⟩ := runBankWr_eq s
  have hf := (seqWrite_step (w := fun _ _ _ => true) (u := s.unit) (b := bankOfSel s.bank) (a := s.addr.toNat)
    s.val rfl s).frame
  rw [h, hf]; rfl

theorem makeStore_keeps (l0 l1 l2 l3 : Nat) (s : State) : Keeps .dsNew s (makeStore l0 l1 l2 l3 s) := by
  rcases makeStore_cases l0 l1 l2 l3 s with ⟨e, h⟩ | ⟨-, -, h⟩ <;> rw [h] <;> rfl

theorem runRequest_keeps {i : Instr} (hi : i.layer = .wire) (s : State) : Keeps .execReq s (runRequest i s) := by
  rcases runRequest_cases hi s with h | ⟨t, r, hk, -, h⟩
  · rw [h]; rfl
  · rw [h, hk.frame]; rfl

theorem runExec_keeps (s : State) : Keeps .execReq s (runExec s) := by
  rcases runExec_cases s with ⟨e, h⟩ | ⟨i, hd, h⟩
  · rw [h]; rfl
  · rw [h]; exact runRequest_keeps (layer_of_decodePdu hd) s

/-! Slave cycles (45_request_exec.md R254 to R256). -/

/-- A slave cycle leaves alone what its transport's decoder and encoder leave alone, within its own frame. -/
theorem slaveCycle_keeps {i : Instr} (hi : i = .slaveRtu ∨ i = .slaveAscii ∨ i = .slaveMbap)
    {dec enc : State → State} (hdec : ∀ s, Keeps i s (dec s)) (henc : ∀ s, Keeps i s (enc s)) (s : State) :
    Keeps i s (slaveCycle dec enc s) := by
  refine slaveCycle_rel (R := Keeps i) Keeps.trans (Keeps.setStatus i) (fun t p => ?_) (fun t => ?_) (fun t => ?_) hdec
    (fun t => ?_) henc s
  · rcases hi with rfl | rfl | rfl <;> rfl
  · rcases hi with rfl | rfl | rfl <;> rfl
  · rcases hi with rfl | rfl | rfl <;> rfl
  · have hk : runExec t = _ := runExec_keeps t
    rw [hk]
    rcases hi with rfl | rfl | rfl <;> rfl

theorem runSlaveRtu_keeps : ∀ s : State, Keeps .slaveRtu s (runSlaveRtu s) := by
  refine slaveCycle_keeps (.inl rfl) (fun t => ?_) (fun t => ?_)
  · have hk : runDecRtu t = _ := runDecRtu_keeps t
    rw [hk]; rfl
  · have hk : runEncRtu t = _ := runEncRtu_keeps t
    rw [hk]; rfl

theorem runSlaveAscii_keeps : ∀ s : State, Keeps .slaveAscii s (runSlaveAscii s) := by
  refine slaveCycle_keeps (.inr (.inl rfl)) (fun t => ?_) (fun t => ?_)
  · have hk : runDecAscii t = _ := (runDecAscii_decoded t).keeps
    rw [hk]; rfl
  · have hk : runEncAscii t = _ := runEncAscii_keeps t
    rw [hk]; rfl

theorem runSlaveMbap_keeps : ∀ s : State, Keeps .slaveMbap s (runSlaveMbap s) := by
  refine slaveCycle_keeps (.inr (.inr rfl)) (fun t => ?_) (fun t => ?_)
  · have hk : runDecMbap t = _ := runDecMbap_keeps t
    rw [hk]; rfl
  · have hk : runEncMbap t = _ := runEncMbap_keeps t
    rw [hk]; rfl

/-! Requests of the master (46_master.md R272, R285 to R287). -/

/-- A request writes `QTY` or `WQTY` alone of the operands (46_master.md R275). -/
theorem State.setQuantities_eq (s : State) : ∃ q w, s.setQuantities = { s with qty := q, wqty := w } := by
  unfold State.setQuantities
  split <;> exact ⟨_, _, rfl⟩

theorem runReq_keeps (s : State) : Keeps .req s (runReq s) := by
  obtain ⟨q, w, hq⟩ := s.setQuantities_eq
  refine runReq_ind (P := Keeps .req s) (Keeps.setStatus _ s) (fun e => ?_) (fun i _ => ?_)
  · rfl
  · rw [hq]; rfl

/-- A framed request leaves alone what its framing leaves alone, within its own frame. -/
theorem masterRequest_keeps {i : Instr} (hi : i = .mreqRtu ∨ i = .mreqAscii ∨ i = .mreqMbap)
    {frame : State → State} (hf : ∀ s, Keeps i s (frame s)) (s : State) : Keeps i s (masterRequest frame s) := by
  refine masterRequest_rel (R := Keeps i) Keeps.trans (fun t => ?_) (fun t => ?_) hf s
  · rcases hi with rfl | rfl | rfl <;> rfl
  · have hk : runReq t = _ := runReq_keeps t
    rw [hk]
    rcases hi with rfl | rfl | rfl <;> rfl

theorem runMreqRtu_keeps : ∀ s : State, Keeps .mreqRtu s (runMreqRtu s) := by
  refine masterRequest_keeps (.inl rfl) fun t => ?_
  have hk : runEncRtu t = _ := runEncRtu_keeps t
  rw [hk]; rfl

theorem runMreqAscii_keeps : ∀ s : State, Keeps .mreqAscii s (runMreqAscii s) := by
  refine masterRequest_keeps (.inr (.inl rfl)) fun t => ?_
  have hk : runEncAscii t = _ := runEncAscii_keeps t
  rw [hk]; rfl

theorem runMreqMbap_keeps : ∀ s : State, Keeps .mreqMbap s (runMreqMbap s) := by
  refine masterRequest_keeps (.inr (.inr rfl)) fun t => ?_
  have hk : runEncMbap (runNextTxid t) = _ := runEncMbap_keeps (runNextTxid t)
  rw [hk]; rfl

/-! Responses of the master (46_master.md R276, R288 to R290). -/

/-- Judging a response leaves alone what evaluating its envelope leaves alone, within its own frame. -/
theorem judge_keeps {i : Instr} (hi : i = .rspRtu ∨ i = .rspAscii ∨ i = .rspMbap) {prep : State → State}
    (hp : ∀ s, Keeps i s (prep s)) (env : State → List Byte → Envelope) (s : State) :
    Keeps i s (judge prep env s) := by
  have validating : Keeps i s (s.setMphase .validating) := by rcases hi with rfl | rfl | rfl <;> rfl
  have failing : ∀ t b e, Keeps i s t → Keeps i s ((t.setPdu b).rspFail e) := by
    intro t b e ht
    refine ht.trans ?_
    rcases State.rspFail_cases (t.setPdu b) e with h | h <;> rw [h] <;> rcases hi with rfl | rfl | rfl <;> rfl
  refine judge_ind (P := Keeps i s) (Keeps.setStatus i s _) (fun t e ht => ?_) (fun t m ht _ => ?_)
  · rcases ht with rfl | rfl
    · exact failing _ _ _ validating
    · exact failing _ _ _ (validating.trans (hp _))
  · have hk : Keeps i s t := ht ▸ validating.trans (hp _)
    cases verdict t m.tail with
    | echoed => exact hk.trans (by rcases hi with rfl | rfl | rfl <;> rfl)
    | data ws => exact hk.trans (by rcases hi with rfl | rfl | rfl <;> rfl)
    | failed e => exact failing _ _ _ hk
    | closed => exact hk.trans (by rcases hi with rfl | rfl | rfl <;> rfl)
    | tooLong => exact Keeps.setStatus i s _

theorem runRspRtu_keeps : ∀ s : State, Keeps .rspRtu s (runRspRtu s) := by
  refine judge_keeps (.inl rfl) (fun t => ?_) _
  split
  · exact Keeps.refl _ t
  · rcases t.ensureCrc_cases with h | h <;> rw [h] <;> rfl

/-- Settles O39: the frame of each instruction is that of the operation it runs. -/
theorem registerFrame : Obligations.RegisterFrame := by
  intro i s t h
  cases hi : i.layer with
  | wire =>
    obtain rfl := eq_runRequest_of_exec hi h
    exact (keeps_wire hi s _).2 (runRequest_keeps hi s)
  | command =>
    cases i <;> simp only [Instr.layer, reduceCtorEq] at hi <;> injection h with h <;> subst h
    case crc16 => exact runCrc16_keeps s
    case lrc => rfl
    case hexenc => exact runHexenc_keeps s
    case hexdec => rfl
    case mbapBuild => exact runMbapBuild_keeps s
    case mbapParse => exact runMbapParse_keeps s
    case encRtu => exact runEncRtu_keeps s
    case encAscii => exact runEncAscii_keeps s
    case encMbap => exact runEncMbap_keeps s
    case decRtu => exact runDecRtu_keeps s
    case decAscii => exact (runDecAscii_decoded s).keeps
    case decMbap => exact runDecMbap_keeps s
    case dsNew => exact makeStore_keeps _ _ _ _ s
    case dsNewDefault => exact makeStore_keeps _ _ _ _ s
    case bankRd => exact runBankRd_keeps s
    case bankWr => exact runBankWr_keeps s
    case execReq => exact runExec_keeps s
    case slaveRtu => exact runSlaveRtu_keeps s
    case slaveAscii => exact runSlaveAscii_keeps s
    case slaveMbap => exact runSlaveMbap_keeps s
    case nextTxid => rfl
    case req => exact runReq_keeps s
    case mreqRtu => exact runMreqRtu_keeps s
    case mreqAscii => exact runMreqAscii_keeps s
    case mreqMbap => exact runMreqMbap_keeps s
    case rspRtu => exact runRspRtu_keeps s
    case rspAscii => exact judge_keeps (.inr (.inl rfl)) (Keeps.refl _) _ s
    case rspMbap => exact judge_keeps (.inr (.inr rfl)) (Keeps.refl _) _ s
    case start => rfl
    case stop => rfl
    case undefinedCmd => rfl

end Sys2Proof.Machine
end

section
/-! PROOFS. What an instruction leaves of the bank elements (10_state.md R34, 44_bank.md R219). -/

namespace Sys2Proof.Machine

/-- An element that `w` does not mark and the host's schedule does not write reads as before, and the schedule only
shrinks. Unlike in `SeqStep`, registers and buffers may move. -/
structure BankFrame (w : Byte → BankName → Nat → Bool) (s t : State) : Prop where
  other : ∀ u b a, withHost s w u b a = false → bankRead t u b a = bankRead s u b a
  sched : ∀ u b a, hostWrites s.hostQ u b a = false → hostWrites t.hostQ u b a = false

theorem BankFrame.trans {w : Byte → BankName → Nat → Bool} {s t r : State} (h : BankFrame w s t)
    (k : BankFrame w t r) : BankFrame w s r := by
  refine ⟨fun u b a e => ?_, fun u b a e => k.sched u b a (h.sched u b a e)⟩
  have e' : withHost t w u b a = false := by
    simp only [withHost, Bool.or_eq_false_iff] at *
    exact ⟨h.sched u b a e.1, e.2⟩
  exact (k.other u b a e').trans (h.other u b a e)

theorem SeqStep.bankFrame {w : Byte → BankName → Nat → Bool} {s t : State} (h : SeqStep w s t) : BankFrame w s t :=
  ⟨h.1.other, h.2⟩

/-- Where datastores and schedule stay, every element does. -/
theorem BankFrame.of_same (w : Byte → BankName → Nat → Bool) {s t : State} (hs : t.stores = s.stores)
    (hq : t.hostQ = s.hostQ) : BankFrame w s t :=
  ⟨fun u b a _ => bankRead_congr hs u b a, fun _ _ _ e => by rw [hq]; exact e⟩

/-- The instructions that may access datastores: the requests, `EXEC`, the slave cycles, the bank commands and the
constructors (10_state.md R34, 44_bank.md R210, R216, R217). -/
def accessesStores : Instr → Bool
  | .rdCoils _ _ | .rdDiscrete _ _ | .rdHolding _ _ | .rdInput _ _ | .wrCoil _ _ | .wrReg _ _ => true
  | .wrCoils _ _ _ _ | .wrRegs _ _ _ _ | .maskWr _ _ _ | .rwRegs _ _ _ _ _ _ | .unrecognized _ => true
  | .execReq | .slaveRtu | .slaveAscii | .slaveMbap | .bankRd | .bankWr | .dsNew | .dsNewDefault => true
  | .crc16 | .lrc | .hexenc | .hexdec | .mbapBuild | .mbapParse => false
  | .encRtu | .encAscii | .encMbap | .decRtu | .decAscii | .decMbap | .nextTxid | .req => false
  | .mreqRtu | .mreqAscii | .mreqMbap | .rspRtu | .rspAscii | .rspMbap => false
  | .start | .stop | .undefinedCmd _ => false

/-- The frame of every other instruction names neither the datastores nor the schedule. -/
theorem Keeps.bankFrame {i : Instr} (hi : accessesStores i = false) (w : Byte → BankName → Nat → Bool) {s t : State}
    (h : Keeps i s t) : BankFrame w s t := by
  have same : t.stores = s.stores ∧ t.hostQ = s.hostQ := by
    cases i <;> simp only [accessesStores, reduceCtorEq] at hi <;>
      (have h : t = _ := h; rw [h]; exact ⟨rfl, rfl⟩)
  exact .of_same w same.1 same.2

theorem BankFrame.mono {w w' : Byte → BankName → Nat → Bool} {s t : State} (h : BankFrame w s t)
    (hw : ∀ u b a, w' u b a = false → w u b a = false) : BankFrame w' s t := by
  refine ⟨fun u b a e => h.other u b a ?_, h.sched⟩
  simp only [withHost, Bool.or_eq_false_iff] at *
  exact ⟨e.1, hw u b a e.2⟩

/-- A request stores to the elements of its own row alone (45_request_exec.md R232). -/
theorem runRequest_bankFrame {i : Instr} (hi : i.layer = .wire) (s : State) :
    BankFrame (requestMarks i s.reqUnit) s (runRequest i s) := by
  rcases runRequest_cases hi s with h | ⟨t, r, hk, -, h⟩ <;> rw [h]
  · exact .of_same _ rfl rfl
  · have starts : BankFrame (requestMarks i s.reqUnit) s (s.setSphase .dispatching) := .of_same _ rfl rfl
    have replies : BankFrame (requestMarks i s.reqUnit) t (t.reply s.reqUnit r) := .of_same _ rfl rfl
    exact (starts.trans hk.bankFrame).trans replies

/-! The input banks. -/

/-- The banks the wire may write: coils and holding registers (10_state.md R34). -/
def wireWritable (_ : Byte) (b : BankName) (_ : Nat) : Bool := b == .co || b == .hr

/-- No request stores to a discrete input or an input register (45_request_exec.md R232). -/
theorem requestStores_of_input (i : Instr) {u : Byte} {b : BankName} {a : Nat} (h : wireWritable u b a = false) :
    requestStores i b a = false := by
  cases b with
  | di => cases i <;> rfl
  | ir => cases i <;> rfl
  | co => cases h
  | hr => cases h

theorem runRequest_inputs {i : Instr} (hi : i.layer = .wire) (s : State) :
    BankFrame wireWritable s (runRequest i s) :=
  (runRequest_bankFrame hi s).mono fun u b a h => by
    rw [requestMarks, requestStores_of_input i h, Bool.and_false]

theorem runExec_inputs (s : State) : BankFrame wireWritable s (runExec s) := by
  rcases runExec_cases s with ⟨e, h⟩ | ⟨i, hd, h⟩ <;> rw [h]
  · exact .of_same _ rfl rfl
  · exact runRequest_inputs (layer_of_decodePdu hd) s

theorem runBankRd_bankFrame (w : Byte → BankName → Nat → Bool) (s : State) : BankFrame w s (runBankRd s) := by
  obtain ⟨v, e, h⟩ := runBankRd_eq s
  rw [h]
  exact (SeqStep.turn w s).bankFrame.trans (.of_same w rfl rfl)

/-- A slave cycle stores what its request stores: decoding and encoding access no element. -/
theorem slaveCycle_inputs {i j : Instr} (hi : accessesStores i = false) (hj : accessesStores j = false)
    {dec enc : State → State} (hdec : ∀ s, Keeps i s (dec s)) (henc : ∀ s, Keeps j s (enc s)) (s : State) :
    BankFrame wireWritable s (slaveCycle dec enc s) :=
  slaveCycle_rel (R := BankFrame wireWritable) BankFrame.trans (fun _ _ => .of_same _ rfl rfl)
    (fun _ _ => .of_same _ rfl rfl) (fun _ => .of_same _ rfl rfl) (fun _ => .of_same _ rfl rfl)
    (fun t => (hdec t).bankFrame hi _) runExec_inputs (fun t => (henc t).bankFrame hj _) s

/-- Every instruction but `BANK_WR` and the constructors leaves the input banks to the host (10_state.md R34). -/
theorem exec_inputs {i : Instr} {s t : State} (h : exec i s = .next t) (hw : i ≠ .bankWr) (hn : i ≠ .dsNew)
    (hd : i ≠ .dsNewDefault) : BankFrame wireWritable s t := by
  cases ha : accessesStores i with
  | false => exact (registerFrame i s t h).bankFrame ha _
  | true =>
    cases hi : i.layer with
    | wire =>
      obtain rfl := eq_runRequest_of_exec hi h
      exact runRequest_inputs hi s
    | command =>
      cases i <;> simp only [accessesStores, Instr.layer, reduceCtorEq] at ha hi <;> injection h with h <;> subst h
      case bankWr => exact absurd rfl hw
      case dsNew => exact absurd rfl hn
      case dsNewDefault => exact absurd rfl hd
      case execReq => exact runExec_inputs s
      case slaveRtu => exact slaveCycle_inputs (i := .decRtu) (j := .encRtu) rfl rfl runDecRtu_keeps runEncRtu_keeps s
      case slaveAscii =>
        exact slaveCycle_inputs (i := .decAscii) (j := .encAscii) rfl rfl (fun t => (runDecAscii_decoded t).keeps)
          runEncAscii_keeps s
      case slaveMbap =>
        exact slaveCycle_inputs (i := .decMbap) (j := .encMbap) rfl rfl runDecMbap_keeps runEncMbap_keeps s
      case bankRd => exact runBankRd_bankFrame _ s

/-- Settles O37: a discrete input or an input register is no element the wire may write (`exec_inputs`). -/
theorem wireCannotWriteInputs : Obligations.WireCannotWriteInputs := by
  intro i s t h hw hn hd u b a hb hq
  have input : wireWritable u b a = false := by rcases hb with rfl | rfl <;> rfl
  exact (exec_inputs h hw hn hd).other u b a (by rw [withHost, hq, input, Bool.or_false])

end Sys2Proof.Machine
end

section
/-! PROOFS. The invariant of steps. A state is `Sound` when its buffers, memory and CRC table are as `State.wf` demands;
the two phases, which move inside a command, are followed apart from it. -/

namespace Sys2Proof.Machine

/-- The part of well-formedness that holds inside a command as well: buffers within capacity (10_state.md R29), memory
canonical (R32), a valid CRC table that is the table (R27). -/
structure State.Sound (s : State) : Prop where
  rx : s.rx.wf = true
  tx : s.tx.wf = true
  pdu : s.pdu.wf = true
  data : s.data.wf = true
  stores : memoryWf s.stores = true
  crc : s.crcValid = true → s.crcTab = crcTable

/-- Well-formed is sound, with both phases between commands (10_state.md R30, 46_master.md R270). -/
theorem State.wf_iff (s : State) : s.wf = true ↔ s.Sound ∧ s.sphase = .idle ∧ s.mphase.settled = true := by
  simp only [State.wf, Bool.and_eq_true, Bool.or_eq_true, Bool.not_eq_true', beq_iff_eq]
  constructor
  · rintro ⟨⟨⟨⟨⟨⟨⟨hrx, htx⟩, hpdu⟩, hdata⟩, hmem⟩, hcrc⟩, hs⟩, hm⟩
    exact ⟨⟨hrx, htx, hpdu, hdata, hmem, fun hv => hcrc.resolve_left (by simp [hv])⟩, hs, hm⟩
  · rintro ⟨⟨hrx, htx, hpdu, hdata, hmem, hcrc⟩, hs, hm⟩
    refine ⟨⟨⟨⟨⟨⟨⟨hrx, htx⟩, hpdu⟩, hdata⟩, hmem⟩, ?_⟩, hs⟩, hm⟩
    cases hv : s.crcValid with
    | false => exact .inl rfl
    | true => exact .inr (hcrc hv)

/-- The invariant is well-formedness with no host access left over. -/
theorem State.inv_iff (s : State) : s.inv = true ↔ s.wf = true ∧ s.hostQ = [] := by
  simp only [State.inv, Bool.and_eq_true, List.isEmpty_iff]

/-! What each update keeps of a sound state. -/

section
variable {s : State} (h : s.Sound)
include h

theorem State.Sound.setStatus (e : Status) : (s.setStatus e).Sound := ⟨h.rx, h.tx, h.pdu, h.data, h.stores, h.crc⟩

theorem State.Sound.setRes (v : Word) : (s.setRes v).Sound := ⟨h.rx, h.tx, h.pdu, h.data, h.stores, h.crc⟩

theorem State.Sound.setSphase (p : SPhase) : (s.setSphase p).Sound := ⟨h.rx, h.tx, h.pdu, h.data, h.stores, h.crc⟩

theorem State.Sound.setMphase (p : MPhase) : (s.setMphase p).Sound := ⟨h.rx, h.tx, h.pdu, h.data, h.stores, h.crc⟩

theorem State.Sound.setRun (r : Bool) : (s.setRun r).Sound := ⟨h.rx, h.tx, h.pdu, h.data, h.stores, h.crc⟩

theorem State.Sound.setPdu {b : ByteBuf} (hb : b.wf = true) : (s.setPdu b).Sound :=
  ⟨h.rx, h.tx, hb, h.data, h.stores, h.crc⟩

theorem State.Sound.setTx {b : ByteBuf} (hb : b.wf = true) : (s.setTx b).Sound :=
  ⟨h.rx, hb, h.pdu, h.data, h.stores, h.crc⟩

theorem State.Sound.setData {b : WordBuf} (hb : b.wf = true) : (s.setData b).Sound :=
  ⟨h.rx, h.tx, h.pdu, hb, h.stores, h.crc⟩

theorem State.Sound.setStores {m : List (Nat × Store)} (hm : memoryWf m = true) : (s.setStores m).Sound :=
  ⟨h.rx, h.tx, h.pdu, h.data, hm, h.crc⟩

theorem State.Sound.loseTx : s.loseTx.Sound := ⟨h.rx, s.loseTx_tx_wf, h.pdu, h.data, h.stores, h.crc⟩

theorem State.Sound.loseData : s.loseData.Sound := ⟨h.rx, h.tx, h.pdu, s.loseData_data_wf, h.stores, h.crc⟩

/-- The table build makes the table (40_checksum.md R133). -/
theorem State.Sound.ensureCrc : s.ensureCrc.Sound := by
  rcases s.ensureCrc_cases with hc | hc <;> rw [hc]
  · exact h
  · exact ⟨h.rx, h.tx, h.pdu, h.data, h.stores, fun _ => rfl⟩

theorem State.Sound.discard (e : Status) : (s.discard e).Sound :=
  ((h.setPdu (ByteBuf.wf_clear h.pdu)).setSphase _).setStatus e

theorem State.Sound.bankStep {w : Byte → BankName → Nat → Bool} {t : State} (k : BankStep w s t) : t.Sound := by
  have hm := k.canon h.stores
  have hf : t = _ := k.frame
  generalize t.stores = m at hf hm
  rw [hf]
  exact ⟨h.rx, h.tx, h.pdu, h.data, hm, h.crc⟩

/-! Checksums, codecs and envelopes. -/

theorem runCrc16_sound : (runCrc16 s).Sound := (h.ensureCrc.setRes _).setStatus _

theorem runHexenc_sound : (runHexenc s).Sound := by
  simp only [runHexenc]
  split
  · exact h.setStatus _
  · exact (h.setTx (ByteBuf.wf_write h.tx (by rw [length_hexenc]; omega))).setStatus _

theorem runHexdec_sound : (runHexdec s).Sound := by
  have := ByteBuf.bytes_le h.rx
  exact (h.setPdu (ByteBuf.wf_write h.pdu (by rw [length_hexdec]; omega))).setStatus _

theorem runMbapBuild_sound : (runMbapBuild s).Sound := by
  simp only [runMbapBuild]
  split
  · exact h.setStatus _
  · exact (h.setTx (ByteBuf.wf_write h.tx (by rw [length_mbapHeader, bufMax_eq]; omega))).setStatus _

theorem runMbapParse_sound : (runMbapParse s).Sound := by
  simp only [runMbapParse]
  split
  · exact h.setStatus _
  · exact ⟨h.rx, h.tx, h.pdu, h.data, h.stores, h.crc⟩

theorem runEncRtu_sound : (runEncRtu s).Sound := by
  simp only [runEncRtu]
  split
  · exact h.setStatus _
  · exact (h.ensureCrc.setTx (ByteBuf.wf_write h.tx (by rw [length_rtuFrame]; omega))).setStatus _

theorem runEncAscii_sound : (runEncAscii s).Sound := by
  simp only [runEncAscii]
  split
  · exact h.setStatus _
  · exact (h.setTx (ByteBuf.wf_write h.tx (by rw [length_asciiFrame]; omega))).setStatus _

theorem runEncMbap_sound : (runEncMbap s).Sound := by
  simp only [runEncMbap]
  split
  · exact h.setStatus _
  · exact (h.setTx (ByteBuf.wf_write h.tx (by rw [length_mbapFrame _ _ (by omega)]; omega))).setStatus _

/-! Frame decoders: the accepted message is no longer than the frame. -/

theorem Decoded.sound {n : Nat} {t : State} (hd : Decoded n s t) (hn : n ≤ Config.bufMax) : t.Sound := by
  rcases hd with ⟨e, rfl⟩ | ⟨m, hm, rfl⟩
  · exact h.discard e
  · exact (h.setPdu (ByteBuf.wf_write h.pdu (hm.trans hn))).setStatus _

theorem runDecRtu_sound : (runDecRtu s).Sound := by
  rcases runDecRtu_decoded s with hd | hd
  · exact hd.sound h (ByteBuf.bytes_le h.rx)
  · exact hd.sound h.ensureCrc (ByteBuf.bytes_le h.rx)

theorem runDecAscii_sound : (runDecAscii s).Sound := (runDecAscii_decoded s).sound h (ByteBuf.bytes_le h.rx)

theorem runDecMbap_sound : (runDecMbap s).Sound := by
  rcases runDecMbap_decoded s with hd | ⟨i, p, l, hd⟩
  · exact hd.sound h (ByteBuf.bytes_le h.rx)
  · have hs : State.Sound { s with mtid := i, proto := p, mlen := l } :=
      ⟨h.rx, h.tx, h.pdu, h.data, h.stores, h.crc⟩
    exact hd.sound hs (ByteBuf.bytes_le h.rx)

/-! Banks and requests. -/

theorem makeStore_sound (l0 l1 l2 l3 : Nat) : (makeStore l0 l1 l2 l3 s).Sound := by
  rcases makeStore_cases l0 l1 l2 l3 s with ⟨e, hk⟩ | ⟨hu, ⟨h0, h1, h2, h3⟩, hk⟩ <;> rw [hk]
  · exact h.setStatus e
  · have hd : (newStore l0 l1 l2 l3).wf = true := by
      simp [newStore, Store.wf, BankMem.wf, assocWf, h0, h1, h2, h3]
    exact (h.setStores (memoryWf_put h.stores hu hd)).setStatus _

theorem runBankRd_sound : (runBankRd s).Sound := by
  obtain ⟨v, e, hk⟩ := runBankRd_eq s
  rw [hk]
  exact ((h.bankStep (hostTurn_step s).1).setRes v).setStatus e

theorem runBankWr_sound : (runBankWr s).Sound := by
  obtain ⟨e, hk⟩ := runBankWr_eq s
  rw [hk]
  exact (h.bankStep (seqWrite_step (w := fun _ _ _ => true) s.val rfl s).1).setStatus e

theorem runRequest_sound {i : Instr} (hi : i.layer = .wire) : (runRequest i s).Sound := by
  rcases runRequest_cases hi s with hk | ⟨t, r, hs, hr, hk⟩ <;> rw [hk]
  · exact h.discard _
  · have ht : t.Sound := (h.setSphase .dispatching).bankStep hs.1
    have hm : (s.reqUnit :: r).length ≤ Config.bufMax := by
      simp only [List.length_cons, bufMax_eq]; omega
    exact ((ht.setPdu (ByteBuf.wf_write ht.pdu hm)).setStatus _).setSphase _

theorem runExec_sound : (runExec s).Sound := by
  rcases runExec_cases s with ⟨e, hk⟩ | ⟨i, hd, hk⟩ <;> rw [hk]
  · exact h.discard e
  · exact runRequest_sound h (layer_of_decodePdu hd)

end

theorem slaveCycle_sound {dec enc : State → State} (hdec : ∀ s, s.Sound → (dec s).Sound)
    (henc : ∀ s, s.Sound → (enc s).Sound) (s : State) (h : s.Sound) : (slaveCycle dec enc s).Sound :=
  slaveCycle_rel (R := fun s t => s.Sound → t.Sound) (fun hab hbc ha => hbc (hab ha)) (fun _ e h => h.setStatus e)
    (fun _ p h => h.setSphase p) (fun _ h => h.setTx (ByteBuf.wf_clear h.tx)) (fun _ h => h.loseTx) hdec
    (fun _ h => runExec_sound h) henc s h

/-! Requests of the master (46_master.md R273). -/

theorem le_of_checkQty_map {q max : Nat} {f : Unit → Instr} {i : Instr} (h : (checkQty q max).map f = .ok i) :
    q ≤ max ∧ i = f () := by
  simp only [checkQty] at h
  split_ifs at h with hq hmax <;> cases h
  exact ⟨by omega, rfl⟩

/-- A request PDU has at most 252 bytes: the quantity checks bound the data it carries (30_encoding.md R87). -/
theorem length_encode_of_buildRequest {s : State} {i : Instr} (h : buildRequest s = .ok i) :
    (encode i).length ≤ 252 := by
  have hd : s.data.words.length ≤ s.data.len.toNat := by
    rw [WordBuf.words, List.length_take]; exact Nat.min_le_left _ _
  simp only [buildRequest] at h
  split at h
  case h_5 | h_6 | h_9 => cases h; simp [encode]
  case h_1 | h_2 | h_3 | h_4 => obtain ⟨-, rfl⟩ := le_of_checkQty_map h; simp [encode]
  case h_7 =>
    obtain ⟨hn, rfl⟩ := le_of_checkQty_map h
    simp only [encode, List.length_cons, List.length_append, length_be, length_pack, ceil8]
    omega
  case h_8 =>
    obtain ⟨hn, rfl⟩ := le_of_checkQty_map h
    simp only [encode, List.length_cons, List.length_append, length_be, length_words]
    omega
  case h_10 =>
    split at h
    · cases h
    · obtain ⟨hn, rfl⟩ := le_of_checkQty_map h
      simp only [encode, List.length_cons, List.length_append, length_be, length_words]
      omega
  case h_11 => cases h

theorem runReq_sound {s : State} (h : s.Sound) : (runReq s).Sound := by
  refine runReq_ind (P := State.Sound) (fun e => h.setStatus e) (fun e => ?_) (fun i hb => ?_)
  · exact (((h.setPdu (ByteBuf.wf_clear h.pdu)).setTx (ByteBuf.wf_clear h.tx)).setMphase _).setStatus e
  · have hq : s.setQuantities.Sound := by
      obtain ⟨q, w, hq⟩ := s.setQuantities_eq
      rw [hq]
      exact ⟨h.rx, h.tx, h.pdu, h.data, h.stores, h.crc⟩
    have hm : (s.unit :: encode i).length ≤ Config.bufMax := by
      have := length_encode_of_buildRequest hb
      simp only [List.length_cons, bufMax_eq]; omega
    exact ((hq.setPdu (ByteBuf.wf_write h.pdu hm)).setMphase _).setStatus _

theorem masterRequest_sound {frame : State → State} (hf : ∀ s, s.Sound → (frame s).Sound) (s : State) (h : s.Sound) :
    (masterRequest frame s).Sound :=
  masterRequest_rel (R := fun s t => s.Sound → t.Sound) (fun hab hbc ha => hbc (hab ha))
    (fun _ h => h.setTx (ByteBuf.wf_clear h.tx)) (fun _ h => runReq_sound h) hf s h

theorem runNextTxid_sound {s : State} (h : s.Sound) : (runNextTxid s).Sound :=
  ⟨h.rx, h.tx, h.pdu, h.data, h.stores, h.crc⟩

/-! Responses of the master: the stripped message is no longer than the frame, the data fits `DATABUF`. -/

theorem length_of_envelopeRtu {s : State} {f m : List Byte} (h : envelopeRtu s f = .ok m) : m.length ≤ f.length := by
  simp only [envelopeRtu] at h
  split_ifs at h
  cases h
  simp

theorem length_of_envelopeAscii {s : State} {f m : List Byte} (h : envelopeAscii s f = .ok m) :
    m.length ≤ f.length := by
  simp only [envelopeAscii] at h
  split_ifs at h
  cases h
  simp only [List.length_dropLast, length_hexdec, List.length_take, List.length_drop]
  omega

theorem length_of_envelopeMbap {s : State} {f m : List Byte} (h : envelopeMbap s f = .ok m) :
    m.length ≤ f.length := by
  simp only [envelopeMbap] at h
  split_ifs at h
  cases h
  simp

/-- An echo check returns no data. -/
theorem echoVerdict_ne_data (addr : Word) (fields : List (Word × Status)) (p : List Byte) (ws : List Word) :
    echoVerdict addr fields p ≠ .data ws := by
  have echo : ∀ (fs : List (Word × Status)) (k : Nat), echoFields k fs p ≠ .data ws := by
    intro fs
    induction fs with
    | nil => intro k; simp [echoFields]
    | cons x fs ih =>
      intro k
      simp only [echoFields]
      split
      · simp
      · exact ih _
  simp only [echoVerdict]
  split
  · simp
  split
  · simp
  · exact echo _ _

/-- A read reply returns as many elements as its values, at most `DATA_MAX` (30_encoding.md R122). -/
theorem length_of_readVerdict {qty need : Nat} {values : List Byte → List Word} {p : List Byte} {ws : List Word}
    (hv : ∀ d, (values d).length ≤ qty) (h : readVerdict qty need values p = .data ws) :
    ws.length ≤ Config.dataMax := by
  simp only [readVerdict] at h
  split_ifs at h
  cases h
  have := hv (p.drop 2)
  omega

/-- The data a reply returns fits `DATABUF` (46_master.md R279). -/
theorem length_of_verdict {s : State} {p : List Byte} {ws : List Word} (h : verdict s p = .data ws) :
    ws.length ≤ Config.dataMax := by
  simp only [verdict] at h
  split at h
  · cases h
  split at h
  case h_1 | h_2 | h_3 | h_4 | h_5 => exact length_of_readVerdict (by simp) h
  case h_11 => cases h
  all_goals exact absurd h (echoVerdict_ne_data _ _ _ _)

theorem State.Sound.rspFail {s : State} (h : s.Sound) (e : Status) : (s.rspFail e).Sound := by
  rcases s.rspFail_cases e with hk | hk <;> rw [hk]
  · exact (h.setMphase _).setStatus e
  · exact (h.loseData.setMphase _).setStatus e

theorem judge_sound {prep : State → State} {env : State → List Byte → Envelope}
    (hp : ∀ s, s.Sound → (prep s).Sound) (he : ∀ s f m, env s f = .ok m → m.length ≤ f.length) {s : State}
    (h : s.Sound) : (judge prep env s).Sound := by
  refine judge_ind (P := State.Sound) (h.setStatus _) (fun t e ht => ?_) (fun t m ht hm => ?_)
  · have hs : t.Sound := by
      rcases ht with rfl | rfl
      · exact h.setMphase _
      · exact hp _ (h.setMphase _)
    exact (hs.setPdu (ByteBuf.wf_clear hs.pdu)).rspFail e
  · have ht : t.Sound := ht ▸ hp _ (h.setMphase _)
    have hs : (t.setPdu (t.pdu.write m)).Sound :=
      ht.setPdu (ByteBuf.wf_write ht.pdu ((he _ _ _ hm).trans (ByteBuf.bytes_le h.rx)))
    cases hv : verdict t m.tail with
    | echoed => exact (hs.setMphase _).setStatus _
    | data ws =>
      exact ((hs.setData (WordBuf.wf_write hs.data (length_of_verdict hv))).setMphase _).setStatus _
    | failed e => exact hs.rspFail e
    | closed => exact (hs.loseData.setMphase _).setStatus _
    | tooLong => exact h.setStatus _

theorem runRspRtu_sound {s : State} (h : s.Sound) : (runRspRtu s).Sound := by
  refine judge_sound (fun t ht => ?_) (fun _ _ _ => length_of_envelopeRtu) h
  split
  · exact ht
  · exact ht.ensureCrc

/-- Every instruction keeps a state sound. -/
theorem exec_sound {i : Instr} {s t : State} (h : exec i s = .next t) (hs : s.Sound) : t.Sound := by
  cases hi : i.layer with
  | wire =>
    obtain rfl := eq_runRequest_of_exec hi h
    exact runRequest_sound hs hi
  | command =>
    cases i <;> simp only [Instr.layer, reduceCtorEq] at hi <;> injection h with h <;> subst h
    case crc16 => exact runCrc16_sound hs
    case lrc => exact (hs.setRes _).setStatus _
    case hexenc => exact runHexenc_sound hs
    case hexdec => exact runHexdec_sound hs
    case mbapBuild => exact runMbapBuild_sound hs
    case mbapParse => exact runMbapParse_sound hs
    case encRtu => exact runEncRtu_sound hs
    case encAscii => exact runEncAscii_sound hs
    case encMbap => exact runEncMbap_sound hs
    case decRtu => exact runDecRtu_sound hs
    case decAscii => exact runDecAscii_sound hs
    case decMbap => exact runDecMbap_sound hs
    case dsNew => exact makeStore_sound hs _ _ _ _
    case dsNewDefault => exact makeStore_sound hs _ _ _ _
    case bankRd => exact runBankRd_sound hs
    case bankWr => exact runBankWr_sound hs
    case execReq => exact runExec_sound hs
    case slaveRtu => exact slaveCycle_sound (fun _ => runDecRtu_sound) (fun _ => runEncRtu_sound) s hs
    case slaveAscii => exact slaveCycle_sound (fun _ => runDecAscii_sound) (fun _ => runEncAscii_sound) s hs
    case slaveMbap => exact slaveCycle_sound (fun _ => runDecMbap_sound) (fun _ => runEncMbap_sound) s hs
    case nextTxid => exact runNextTxid_sound hs
    case req => exact runReq_sound hs
    case mreqRtu => exact masterRequest_sound (fun _ => runEncRtu_sound) s hs
    case mreqAscii => exact masterRequest_sound (fun _ => runEncAscii_sound) s hs
    case mreqMbap => exact masterRequest_sound (fun _ h => runEncMbap_sound (runNextTxid_sound h)) s hs
    case rspRtu => exact runRspRtu_sound hs
    case rspAscii => exact judge_sound (fun _ h => h) (fun _ _ _ => length_of_envelopeAscii) hs
    case rspMbap => exact judge_sound (fun _ h => h) (fun _ _ _ => length_of_envelopeMbap) hs
    case start => exact (hs.setRun _).setStatus _
    case stop => exact (hs.setRun _).setStatus _
    case undefinedCmd => exact hs.setStatus _

end Sys2Proof.Machine
end

section
/-! PROOFS. The phases between commands (10_state.md R30, 46_master.md R270), the inputs of the outside world, and the
invariant every step keeps. -/

namespace Sys2Proof.Machine

/-! `SPHASE`: the frames that name it are those of the requests, `EXEC`, the decoders and the slave cycles. -/

/-- The instructions whose frame names `SPHASE`. -/
def movesSphase : Instr → Bool
  | .rdCoils _ _ | .rdDiscrete _ _ | .rdHolding _ _ | .rdInput _ _ | .wrCoil _ _ | .wrReg _ _ => true
  | .wrCoils _ _ _ _ | .wrRegs _ _ _ _ | .maskWr _ _ _ | .rwRegs _ _ _ _ _ _ | .unrecognized _ => true
  | .execReq | .decRtu | .decAscii | .decMbap | .slaveRtu | .slaveAscii | .slaveMbap => true
  | .crc16 | .lrc | .hexenc | .hexdec | .mbapBuild | .mbapParse | .encRtu | .encAscii | .encMbap => false
  | .dsNew | .dsNewDefault | .bankRd | .bankWr | .nextTxid | .req => false
  | .mreqRtu | .mreqAscii | .mreqMbap | .rspRtu | .rspAscii | .rspMbap => false
  | .start | .stop | .undefinedCmd _ => false

theorem Keeps.sphase {i : Instr} (hi : movesSphase i = false) {s t : State} (h : Keeps i s t) :
    t.sphase = s.sphase := by
  cases i <;> simp only [movesSphase, reduceCtorEq] at hi <;> (have h : t = _ := h; rw [h])

theorem Decoded.sphase {n : Nat} {s t : State} (h : Decoded n s t) (hs : s.sphase = .idle) : t.sphase = .idle := by
  rcases h with ⟨e, rfl⟩ | ⟨m, -, rfl⟩
  · rfl
  · exact hs

theorem runDecRtu_sphase {s : State} (h : s.sphase = .idle) : (runDecRtu s).sphase = .idle := by
  rcases runDecRtu_decoded s with hd | hd
  · exact hd.sphase h
  · refine hd.sphase ?_
    rcases s.ensureCrc_cases with hc | hc <;> rw [hc] <;> exact h

theorem runDecMbap_sphase {s : State} (h : s.sphase = .idle) : (runDecMbap s).sphase = .idle := by
  rcases runDecMbap_decoded s with hd | ⟨i, p, l, hd⟩
  · exact hd.sphase h
  · exact hd.sphase h

/-- A request ends `Idle`, from any phase (45_request_exec.md R230). -/
theorem runRequest_sphase {i : Instr} (hi : i.layer = .wire) (s : State) : (runRequest i s).sphase = .idle := by
  rcases runRequest_cases hi s with h | ⟨t, r, -, -, h⟩ <;> rw [h] <;> rfl

theorem runExec_sphase (s : State) : (runExec s).sphase = .idle := by
  rcases runExec_cases s with ⟨e, h⟩ | ⟨i, hd, h⟩ <;> rw [h]
  · rfl
  · exact runRequest_sphase (layer_of_decodePdu hd) s

/-- A slave cycle that starts `Idle` ends `Idle`, whatever its parts do (45_request_exec.md R254). -/
theorem slaveCycle_sphase (dec enc : State → State) {s : State} (h : s.sphase = .idle) :
    (slaveCycle dec enc s).sphase = .idle := by
  simp only [slaveCycle]
  split
  · exact h
  split
  · rfl
  split <;> rfl

theorem exec_sphase {i : Instr} {s t : State} (h : exec i s = .next t) (hs : s.sphase = .idle) :
    t.sphase = .idle := by
  cases hm : movesSphase i with
  | false => exact ((registerFrame i s t h).sphase hm).trans hs
  | true =>
    cases hi : i.layer with
    | wire =>
      obtain rfl := eq_runRequest_of_exec hi h
      exact runRequest_sphase hi s
    | command =>
      cases i <;> simp only [movesSphase, Instr.layer, reduceCtorEq] at hm hi <;> injection h with h <;> subst h
      case execReq => exact runExec_sphase s
      case decRtu => exact runDecRtu_sphase hs
      case decAscii => exact (runDecAscii_decoded s).sphase hs
      case decMbap => exact runDecMbap_sphase hs
      case slaveRtu => exact slaveCycle_sphase _ _ hs
      case slaveAscii => exact slaveCycle_sphase _ _ hs
      case slaveMbap => exact slaveCycle_sphase _ _ hs

/-! `MPHASE`: the frames that name it are those of `REQ`, `MREQ_*` and `RSP_*`. -/

/-- The instructions whose frame names `MPHASE`. -/
def movesMphase : Instr → Bool
  | .req | .mreqRtu | .mreqAscii | .mreqMbap | .rspRtu | .rspAscii | .rspMbap => true
  | .rdCoils _ _ | .rdDiscrete _ _ | .rdHolding _ _ | .rdInput _ _ | .wrCoil _ _ | .wrReg _ _ => false
  | .wrCoils _ _ _ _ | .wrRegs _ _ _ _ | .maskWr _ _ _ | .rwRegs _ _ _ _ _ _ | .unrecognized _ => false
  | .crc16 | .lrc | .hexenc | .hexdec | .mbapBuild | .mbapParse | .encRtu | .encAscii | .encMbap => false
  | .execReq | .decRtu | .decAscii | .decMbap | .slaveRtu | .slaveAscii | .slaveMbap => false
  | .dsNew | .dsNewDefault | .bankRd | .bankWr | .nextTxid | .start | .stop | .undefinedCmd _ => false

theorem Keeps.mphase {i : Instr} (hi : movesMphase i = false) {s t : State} (h : Keeps i s t) :
    t.mphase = s.mphase := by
  cases i <;> simp only [movesMphase, reduceCtorEq] at hi <;> (have h : t = _ := h; rw [h])

/-- A request is refused in the phase it found, or ends `Errored` or `Sending` (46_master.md R272). -/
theorem runReq_settled {s : State} (h : s.mphase.settled = true) : (runReq s).mphase.settled = true :=
  runReq_ind (P := fun t => t.mphase.settled = true) (fun _ => h) (fun _ => rfl) (fun _ _ => rfl)

theorem masterRequest_settled {frame : State → State} (hf : ∀ s, (frame s).mphase = s.mphase) {s : State}
    (h : s.mphase.settled = true) : (masterRequest frame s).mphase.settled = true :=
  masterRequest_rel (R := fun s t => s.mphase.settled = true → t.mphase.settled = true)
    (fun hab hbc ha => hbc (hab ha)) (fun _ h => h) (fun _ h => runReq_settled h) (fun t h => (hf t).symm ▸ h) s h

/-- A response is refused in the phase it found, or ends `Errored` or `Done` (46_master.md R276). -/
theorem judge_settled (prep : State → State) (env : State → List Byte → Envelope) {s : State}
    (h : s.mphase.settled = true) : (judge prep env s).mphase.settled = true := by
  have failed : ∀ (t : State) (e : Status), (t.rspFail e).mphase.settled = true := by
    intro t e
    rcases t.rspFail_cases e with hk | hk <;> rw [hk] <;> rfl
  refine judge_ind (P := fun t => t.mphase.settled = true) h (fun t e _ => failed _ e) (fun t m _ _ => ?_)
  cases verdict t m.tail with
  | echoed => rfl
  | data ws => rfl
  | failed e => exact failed _ e
  | closed => rfl
  | tooLong => exact h

theorem exec_settled {i : Instr} {s t : State} (h : exec i s = .next t) (hs : s.mphase.settled = true) :
    t.mphase.settled = true := by
  cases hm : movesMphase i with
  | false => rw [(registerFrame i s t h).mphase hm]; exact hs
  | true =>
    cases i <;> simp only [movesMphase, reduceCtorEq] at hm <;> injection h with h <;> subst h
    case req => exact runReq_settled hs
    case mreqRtu => exact masterRequest_settled (fun t => (runEncRtu_keeps t).mphase rfl) hs
    case mreqAscii => exact masterRequest_settled (fun t => (runEncAscii_keeps t).mphase rfl) hs
    case mreqMbap => exact masterRequest_settled (fun t => (runEncMbap_keeps (runNextTxid t)).mphase rfl) hs
    case rspRtu => exact judge_settled _ _ hs
    case rspAscii => exact judge_settled _ _ hs
    case rspMbap => exact judge_settled _ _ hs

/-- Every instruction keeps a state well-formed. -/
theorem exec_wf {i : Instr} {s t : State} (h : exec i s = .next t) (hs : s.wf = true) : t.wf = true := by
  obtain ⟨sound, idle, settled⟩ := s.wf_iff.1 hs
  exact t.wf_iff.2 ⟨exec_sound h sound, exec_sphase h idle, exec_settled h settled⟩

/-! The host. -/

/-- Bank accesses move neither phase. -/
theorem BankStep.wf {w : Byte → BankName → Nat → Bool} {s t : State} (k : BankStep w s t) (h : s.wf = true) :
    t.wf = true := by
  obtain ⟨sound, idle, settled⟩ := s.wf_iff.1 h
  have hs : t.sphase = s.sphase := by rw [k.frame]
  have hm : t.mphase = s.mphase := by rw [k.frame]
  exact t.wf_iff.2 ⟨sound.bankStep k, hs.trans idle, hm ▸ settled⟩

/-- A host access is none of those scheduled inside a command. -/
theorem hostDo_hostQ (a : HostAccess) (s : State) : (hostDo a s).hostQ = s.hostQ := by
  cases a with
  | read u b i => simp only [hostDo]; split <;> rfl
  | write u b i v =>
    simp only [hostDo]
    split
    · rename_i hw
      obtain ⟨d, -, -, rfl⟩ := bankWrite_ok hw
      rfl
    · rfl

/-! The controller. -/

/-- The invariant of a sound state follows from that of a state in the same phases with the same schedule. -/
theorem State.Sound.inv {s t : State} (ht : t.Sound) (h : s.inv = true) (hs : t.sphase = s.sphase)
    (hm : t.mphase = s.mphase) (hq : t.hostQ = s.hostQ) : t.inv = true := by
  obtain ⟨hwf, hs0⟩ := s.inv_iff.1 h
  obtain ⟨-, idle, settled⟩ := s.wf_iff.1 hwf
  exact t.inv_iff.2 ⟨t.wf_iff.2 ⟨ht, hs.trans idle, hm ▸ settled⟩, hq.trans hs0⟩

theorem State.Sound.of_inv {s : State} (h : s.inv = true) : s.Sound := (s.wf_iff.1 (s.inv_iff.1 h).1).1

/-- A length register takes a value up to the capacity as it is. -/
theorem toNat_setWidth_le {v : BitVec 32} {n : Nat} (hv : ¬ v.toNat > n) : (v.setWidth 11).toNat ≤ n := by
  rw [BitVec.toNat_setWidth]
  exact (Nat.mod_le _ _).trans (Nat.not_lt.1 hv)

theorem ByteBuf.wf_setLen {b : ByteBuf} (hb : b.wf = true) {v : BitVec 32} (hv : ¬ v.toNat > Config.bufMax) :
    ByteBuf.wf { b with len := v.setWidth 11 } = true :=
  (ByteBuf.wf_iff _).2 ⟨((ByteBuf.wf_iff b).1 hb).1, toNat_setWidth_le hv⟩

theorem WordBuf.wf_setLen {b : WordBuf} (hb : b.wf = true) {v : BitVec 32} (hv : ¬ v.toNat > Config.dataMax) :
    WordBuf.wf { b with len := v.setWidth 11 } = true :=
  (WordBuf.wf_iff _).2 ⟨((WordBuf.wf_iff b).1 hb).1, toNat_setWidth_le hv⟩

/-- A write to a port register keeps the invariant: a length above the buffer's capacity is refused (30_encoding.md
R122), and no other register is part of it. -/
theorem writePort_inv {s : State} (h : s.inv = true) (r : PortReg) (v : BitVec 32) : (writePort s r v).inv = true := by
  have hs := State.Sound.of_inv h
  cases r with
  | rxLen =>
    simp only [writePort]
    split
    · exact h
    · exact State.Sound.inv ⟨ByteBuf.wf_setLen hs.rx ‹_›, hs.tx, hs.pdu, hs.data, hs.stores, hs.crc⟩ h rfl rfl rfl
  | pduLen =>
    simp only [writePort]
    split
    · exact h
    · exact State.Sound.inv ⟨hs.rx, hs.tx, ByteBuf.wf_setLen hs.pdu ‹_›, hs.data, hs.stores, hs.crc⟩ h rfl rfl rfl
  | dataLen =>
    simp only [writePort]
    split
    · exact h
    · exact State.Sound.inv ⟨hs.rx, hs.tx, hs.pdu, WordBuf.wf_setLen hs.data ‹_›, hs.stores, hs.crc⟩ h rfl rfl rfl
  | _ => exact h

theorem ByteBuf.wf_set {b : ByteBuf} (hb : b.wf = true) (i : Nat) (v : Byte) :
    ByteBuf.wf { b with cells := b.cells.set i v } = true := by
  rw [ByteBuf.wf_iff] at *
  exact ⟨List.length_set.trans hb.1, hb.2⟩

theorem WordBuf.wf_set {b : WordBuf} (hb : b.wf = true) (i : Nat) (v : Word) :
    WordBuf.wf { b with cells := b.cells.set i v } = true := by
  rw [WordBuf.wf_iff] at *
  exact ⟨List.length_set.trans hb.1, hb.2⟩

theorem writeBuf_inv {s : State} (h : s.inv = true) (b : ByteBufId) (i : Nat) (v : Byte) :
    (writeBuf s b i v).inv = true := by
  have hs := State.Sound.of_inv h
  cases b with
  | rx => exact State.Sound.inv ⟨ByteBuf.wf_set hs.rx i v, hs.tx, hs.pdu, hs.data, hs.stores, hs.crc⟩ h rfl rfl rfl
  | tx => exact State.Sound.inv ⟨hs.rx, ByteBuf.wf_set hs.tx i v, hs.pdu, hs.data, hs.stores, hs.crc⟩ h rfl rfl rfl
  | pdu => exact State.Sound.inv ⟨hs.rx, hs.tx, ByteBuf.wf_set hs.pdu i v, hs.data, hs.stores, hs.crc⟩ h rfl rfl rfl

theorem writeData_inv {s : State} (h : s.inv = true) (i : Nat) (v : Word) : (writeData s i v).inv = true := by
  have hs := State.Sound.of_inv h
  exact State.Sound.inv ⟨hs.rx, hs.tx, hs.pdu, WordBuf.wf_set hs.data i v, hs.stores, hs.crc⟩ h rfl rfl rfl

/-! Reset (10_state.md R40). -/

theorem ByteBuf.wf_reset (b : Config.BufName) : (ByteBuf.reset b).wf = true := by
  rw [ByteBuf.wf_iff]
  exact ⟨by simp [ByteBuf.reset], by simp [ByteBuf.reset]⟩

theorem WordBuf.wf_reset : WordBuf.reset.wf = true := by
  rw [WordBuf.wf_iff]
  exact ⟨by simp [WordBuf.reset], by simp [WordBuf.reset]⟩

theorem resetEvent_inv (s : State) : (resetEvent s).inv = true := by
  have sound : (resetEvent s).Sound :=
    ⟨ByteBuf.wf_reset _, ByteBuf.wf_reset _, ByteBuf.wf_reset _, WordBuf.wf_reset, memoryWf_nil, fun h => by cases h⟩
  exact (resetEvent s).inv_iff.2 ⟨(resetEvent s).wf_iff.2 ⟨sound, rfl, rfl⟩, rfl⟩

/-- Settles O55: the reset state is what the reset event leaves of it. -/
theorem resetInv : Obligations.ResetInv := resetEvent_inv State.reset

/-! Steps. -/

theorem hostDo_inv (a : HostAccess) {s : State} (h : s.inv = true) : (hostDo a s).inv = true := by
  obtain ⟨hwf, hq⟩ := s.inv_iff.1 h
  exact (hostDo a s).inv_iff.2 ⟨(hostDo_step a s).wf hwf, (hostDo_hostQ a s).trans hq⟩

/-- An input other than a command start keeps the invariant. -/
theorem applyInput_inv {s : State} (h : s.inv = true) (i : Input) : (applyInput i s).inv = true := by
  cases i with
  | command code during => exact h
  | portWrite r v => exact writePort_inv h r v
  | portRead r => exact h
  | bufWrite b i v => exact writeBuf_inv h b i v
  | bufRead b i => exact h
  | dataWrite i v => exact writeData_inv h i v
  | dataRead i => exact h
  | host a => exact hostDo_inv a h
  | stop => exact h
  | reset => exact resetEvent_inv s
  | overlap => exact h

/-- A command that starts well-formed ends in the invariant: the host accesses left over are made. -/
theorem hostFlush_inv {s : State} (h : s.wf = true) : s.hostFlush.inv = true := by
  obtain ⟨hstep, hq⟩ := hostFlush_step s
  exact s.hostFlush.inv_iff.2 ⟨hstep.wf h, hq⟩

/-- Settles O56: an idle step and an input keep the invariant (`applyInput_inv`); a command keeps the state well-formed
(`exec_wf`), and its end leaves no host access over (`hostFlush_inv`). -/
theorem stepKeepsInv : Obligations.StepKeepsInv := by
  intro s t h hstep
  rcases step_cases hstep with ⟨-, rfl⟩ | ⟨i, rest, -, -, rfl⟩ | ⟨i, rest, code, during, r, -, -, hr, rfl⟩
  · exact h
  · have consumed : State.inv { s with inputs := rest } = true := h
    exact applyInput_inv consumed i
  · have started : (s.started code during rest).wf = true := (s.inv_iff.1 h).1
    exact hostFlush_inv (exec_wf hr started)

end Sys2Proof.Machine
end

section
/-! PROOFS. A host write around the two accesses of a mask write (20_memory.md R63, 70_reset_and_hazards.md R352). The
mask write stores the mask of what the element holds after the host's first turn, and its second access leaves the
schedule of the second turn; a single host write falls into the first turn, the second, or after the command. -/

namespace Sys2Proof.Machine

/-- An element that reads is one of a present unit, below the bank's length (44_bank.md R214). -/
theorem store_of_bankRead {s : State} {u : Byte} {b : BankName} {a : Nat} {x : Word}
    (h : bankRead s u b a = .ok x) : ∃ d, s.store u = some d ∧ a < d.len b := by
  simp only [bankRead] at h
  split at h
  · cases h
  · split at h
    · exact ⟨_, ‹_›, ‹_›⟩
    · cases h

/-- An element that reads can be written, also after accesses that keep the lengths (44_bank.md R214, R215). -/
theorem bankWrite_of_bankRead {s t : State} {u : Byte} {b : BankName} {a : Nat} {x : Word}
    (h : bankRead s u b a = .ok x) (hs : t.shape u = s.shape u) (v : Word) : ∃ r, bankWrite t u b a v = .ok r := by
  obtain ⟨d, hd, ha⟩ := store_of_bankRead h
  obtain ⟨e, he, hl⟩ := store_of_shape hs hd
  exact ⟨_, bankWrite_eq_ok he v (by rw [hl]; exact ha)⟩

/-- A host write to an element that exists is what the element reads as next (44_bank.md R218, R219). -/
theorem bankRead_hostDo_write {s : State} {u : Byte} {b : BankName} {a : Nat} {x : Word}
    (h : bankRead s u b a = .ok x) (v : Word) :
    bankRead (hostDo (.write u b a v) s) u b a = .ok (narrow b v) := by
  obtain ⟨t, ht⟩ := bankWrite_of_bankRead h rfl v
  have stores : (hostDo (.write u b a v) s).stores = t.stores := by simp only [hostDo, ht]
  rw [bankRead_congr stores]
  exact bankRead_bankWrite_self ht

/-! One scheduled access (log entry 3): the turn that makes it, the turn that counts it down, the end of the command. -/

theorem hostTurn_due {s : State} {acc : HostAccess} (h : s.hostQ = [⟨0, acc⟩]) :
    s.hostTurn = { hostDo acc s with hostQ := [] } := by
  have turn : s.hostTurn = hostDue s.hostQ s := rfl
  rw [turn, h]; rfl

theorem hostTurn_wait {s : State} {n : Nat} {acc : HostAccess} {q : List Slot} (h : s.hostQ = ⟨n + 1, acc⟩ :: q) :
    s.hostTurn = { s with hostQ := ⟨n, acc⟩ :: q } := by
  have turn : s.hostTurn = hostDue s.hostQ s := rfl
  rw [turn, h]; rfl

theorem hostFlush_single {s : State} {n : Nat} {acc : HostAccess} (h : s.hostQ = [⟨n, acc⟩]) :
    s.hostFlush = { hostDo acc s with hostQ := [] } := by
  simp only [State.hostFlush, h, List.foldl_cons, List.foldl_nil]

/-! The mask write. -/

/-- The value a mask write makes of the element it read (45_request_exec.md R251). -/
def masked (am om cur : Word) : Word := (cur &&& am) ||| (om &&& ~~~am)

/-- A mask write stores the mask of what it read after the host's first turn; the host's second turn comes before the
store, so what the host writes there is lost (20_memory.md R63). -/
theorem maskWrite_stores {s : State} {u : Byte} {d : Store} (hd : s.store u = some d) {addr cur : Word}
    (hr : bankRead s.hostTurn u .hr addr.toNat = .ok cur) (am om : Word) (echo : List Byte) :
    bankRead (maskWrite addr am om echo u d s).1 u .hr addr.toNat = .ok (masked am om cur) ∧
      (maskWrite addr am om echo u d s).1.hostQ = s.hostTurn.hostTurn.hostQ := by
  obtain ⟨t, ht⟩ := bankWrite_of_bankRead hr ((hostTurn_step s.hostTurn).1.shape u) (masked am om cur)
  have inRange : addr.toNat < d.len .hr := by
    obtain ⟨e, he, hlt⟩ := store_of_bankRead hr
    obtain ⟨e', he', hl⟩ := store_of_shape ((hostTurn_step s).1.shape u) hd
    obtain rfl : e = e' := Option.some.inj (he.symm.trans he')
    rwa [hl] at hlt
  have run : maskWrite addr am om echo u d s = (t, .ok echo) := by
    rw [masked] at ht
    simp only [maskWrite, seqRead, seqWrite, hr, ht]
    rw [if_neg (by omega), if_neg (by omega)]
  rw [run]
  exact ⟨bankRead_bankWrite_self ht, by obtain ⟨-, -, -, rfl⟩ := bankWrite_ok ht; rfl⟩

/-- `MASK_WR` for a present unit runs the mask write; the reply that follows touches neither element nor schedule
(45_request_exec.md R230). -/
theorem exec_maskWr_stores {s : State} {d : Store} (hd : s.store s.reqUnit = some d) {addr cur : Word}
    (hr : bankRead (s.setSphase .dispatching).hostTurn s.reqUnit .hr addr.toNat = .ok cur) (am om : Word) :
    ∃ t, exec (.maskWr addr am om) s = .next t ∧
      bankRead t s.reqUnit .hr addr.toNat = .ok (masked am om cur) ∧
      t.hostQ = (s.setSphase .dispatching).hostTurn.hostTurn.hostQ := by
  obtain ⟨hread, hsched⟩ := maskWrite_stores (s := s.setSphase .dispatching) hd hr am om
    (encode (.maskWr addr am om))
  exact ⟨_, congrArg Host.Outcome.next (serve_present _ _ hd), hread, hsched⟩

/-- Settles O52: the host's write is made in the first turn, so it is what the mask write reads; or in the second, so
the mask write stores over it; or it is still scheduled at the end, and made after the store. -/
theorem maskWriteInterleaving : Obligations.MaskWriteInterleaving := by
  intro s addr am om cur w k hcur hq
  obtain ⟨d, hd, -⟩ := store_of_bankRead hcur
  have hq0 : (s.setSphase .dispatching).hostQ = [⟨k, .write s.reqUnit .hr addr.toNat w⟩] := hq
  match k with
  | 0 =>
    have turn1 := hostTurn_due hq0
    have hr : bankRead (s.setSphase .dispatching).hostTurn s.reqUnit .hr addr.toNat = .ok w := by
      rw [turn1]; exact bankRead_hostDo_write (s := s.setSphase .dispatching) hcur w
    obtain ⟨t, ht, hread, hsched⟩ := exec_maskWr_stores hd hr am om
    rw [hostTurn_quiet (by rw [turn1]), turn1] at hsched
    exact ⟨t, ht, by rw [hostFlush_quiet hsched]; exact hread⟩
  | k + 1 =>
    have turn1 := hostTurn_wait hq0
    have hr : bankRead (s.setSphase .dispatching).hostTurn s.reqUnit .hr addr.toNat = .ok cur := by
      rw [turn1]; exact hcur
    obtain ⟨t, ht, hread, hsched⟩ := exec_maskWr_stores hd hr am om
    refine ⟨t, ht, ?_⟩
    match k with
    | 0 =>
      rw [hostTurn_due (by rw [turn1])] at hsched
      rw [hostFlush_quiet hsched]
      exact hread
    | k + 1 =>
      rw [hostTurn_wait (by rw [turn1])] at hsched
      rw [hostFlush_single hsched]
      exact bankRead_hostDo_write hread w

end Sys2Proof.Machine
end

section
/-! PROOFS. The decoder and the encoder (30_encoding.md R101 to R121). The two bytes of a word and the word they make
are each other's inverse; a code that is none of its layer's listed codes selects the default row; decoding and encoding
are then compared row by row. -/

namespace Sys2Proof.Machine

/-! Words and their bytes (00_scope.md R9). -/

@[simp] theorem hi8_u16be (a b : Byte) : hi8 (u16be a b) = a := by
  apply BitVec.eq_of_toNat_eq; rw [hi8_toNat, u16be_toNat]; omega

@[simp] theorem lo8_u16be (a b : Byte) : lo8 (u16be a b) = b := by
  apply BitVec.eq_of_toNat_eq; rw [lo8_toNat, u16be_toNat]; omega

@[simp] theorem be_u16be (a b : Byte) : be (u16be a b) = [a, b] := by simp [be]

/-! The codes of the default rows. -/

theorem isFunction_eq_false_iff (fc : Byte) : isFunction fc = false ↔ fc.toNat ∉ functionCodes := by
  simp [isFunction]

theorem isCommand_eq_false_iff (c : Byte) : isCommand c = false ↔ c.toNat ∉ commandCodes := by
  simp [isCommand]

/-- A code that is no function decodes whatever follows it (45_request_exec.md R253). -/
theorem decodePdu_of_not_isFunction {fc : Byte} (h : isFunction fc = false) (rest : List Byte) :
    decodePdu (fc :: rest) = .ok (.unrecognized fc) := by
  have hfc := (isFunction_eq_false_iff fc).1 h
  simp only [decodePdu]
  split
  case h_11 => rw [h]; rfl
  all_goals exact absurd (by simp [functionCodes, *]) hfc

/-- A code that is no command decodes to the undefined command (30_encoding.md R121). -/
theorem decodeCmd_of_not_isCommand {c : Byte} (h : isCommand c = false) : decodeCmd c = .undefinedCmd c := by
  have hc := (isCommand_eq_false_iff c).1 h
  simp only [decodeCmd]
  split
  case h_31 => rfl
  all_goals exact absurd (by simp [commandCodes, *]) hc

/-! Decoding an encoding. -/

/-- The row of a request PDU reads back the words and the data its encoding wrote; well-formed data is no longer than
its count, so the decoder drops none of it. -/
theorem decodePdu_encode {i : Instr} (hi : i.layer = .wire) (hw : i.wf = true) : decodePdu (encode i) = .ok i := by
  cases i <;> simp only [Instr.layer, reduceCtorEq] at hi
  case wrCoils | wrRegs | rwRegs =>
    have hlen := of_decide_eq_true hw
    simp [encode, be, decodePdu, List.take_of_length_le hlen]
  case unrecognized fc => exact decodePdu_of_not_isFunction (by simpa [Instr.wf] using hw) []
  all_goals simp [encode, be, decodePdu]

/-- The encoding of a command is its code alone. -/
theorem decode_command_encode {i : Instr} (hi : i.layer = .command) (hw : i.wf = true) :
    decode .command (encode i) = .ok i := by
  cases i <;> simp only [Instr.layer, reduceCtorEq] at hi
  case undefinedCmd c => exact congrArg Except.ok (decodeCmd_of_not_isCommand (by simpa [Instr.wf] using hw))
  all_goals rfl

/-- Settles O1: a request PDU by its layout, a command by its code. -/
theorem decodeEncodeAgree : Obligations.DecodeEncodeAgree := by
  intro i hw
  cases hi : i.layer with
  | wire => exact decodePdu_encode hi hw
  | command => exact decode_command_encode hi hw

/-! Encoding what was decoded. -/

/-- The decoder keeps at most as many data bytes as the count says, and calls only what is no function unrecognized. -/
theorem wf_of_decodePdu {bs : List Byte} {i : Instr} (h : decodePdu bs = .ok i) : i.wf = true := by
  cases bs with
  | nil => cases h
  | cons fc rest =>
    simp only [decodePdu] at h
    split at h
    case h_7 | h_8 | h_10 => cases h; exact decide_eq_true (List.length_take_le _ _)
    case h_11 =>
      split at h <;> cases h
      rename_i hfc
      simpa [Instr.wf] using hfc
    all_goals cases h; rfl

/-- What the encoding leaves of the bytes is what the decoder ignored (45_request_exec.md R235 (c)). -/
theorem eq_encode_append_of_decodePdu {bs : List Byte} {i : Instr} (h : decodePdu bs = .ok i) :
    ∃ rest, bs = encode i ++ rest := by
  cases bs with
  | nil => cases h
  | cons fc rest =>
    simp only [decodePdu] at h
    split at h
    case h_11 => split at h <;> cases h; exact ⟨_, rfl⟩
    case h_7 n t hc | h_8 n t hc | h_10 n t hc =>
      cases h
      exact ⟨t.drop n.toNat, by simp [encode, ← BitVec.toNat_inj, hc]⟩
    all_goals
      rename_i ignored hc
      cases h
      exact ⟨ignored, by simp [encode, ← BitVec.toNat_inj, hc]⟩

/-- Settles O2: the three facts about a decoded request PDU, row by row above. -/
theorem decodePduExact : Obligations.DecodePduExact := fun _ _ h =>
  ⟨wf_of_decodePdu h, layer_of_decodePdu h, eq_encode_append_of_decodePdu h⟩

/-- Settles O3: each word is read by the row its code selects. -/
theorem specWordsDecode : Obligations.SpecWordsDecode := by
  unfold Obligations.SpecWordsDecode
  decide

/-! The default rows (30_encoding.md R111, R121). -/

/-- The numbers R111 lists are the ones that are not in R100. -/
theorem not_mem_functionCodes_iff (n : Nat) :
    n ∉ functionCodes ↔ n = 0 ∨ (0x07 ≤ n ∧ n ≤ 0x0E) ∨ (0x11 ≤ n ∧ n ≤ 0x15) ∨ 0x18 ≤ n := by
  simp [functionCodes]; omega

/-- The numbers R121 lists are the ones that are not in R120. -/
theorem not_mem_commandCodes_iff (n : Nat) :
    n ∉ commandCodes ↔
      n ∈ [0x00, 0x07, 0x0B, 0x0F, 0x1F, 0x22, 0x23, 0x27] ∨ (0x14 ≤ n ∧ n ≤ 0x17) ∨
        (0x19 ≤ n ∧ n ≤ 0x1B) ∨ (0x2B ≤ n ∧ n ≤ 0x2F) ∨ 0x32 ≤ n := by
  simp [commandCodes]; omega

/-- An unrecognized function code of a present unit is answered by exception 1, no bank accessed
(45_request_exec.md R253). -/
theorem runUnrecognized_present {s : State} {d : Store} (h : s.store s.reqUnit = some d) (fc : Byte) :
    runUnrecognized fc s = s.replied s.reqUnit [fc ||| 0x80, 1] :=
  serve_present fc _ h

/-- `EXEC` runs the request that the message of a present unit decodes to (45_request_exec.md R230). -/
theorem runExec_of_decodePdu {s : State} {u fc : Byte} {rest : List Byte} {d : Store} {i : Instr}
    (hb : s.pdu.bytes = u :: fc :: rest) (hs : s.store u = some d) (hd : decodePdu (fc :: rest) = .ok i) :
    runExec s = runRequest i s := by
  simp only [runExec, hb, store_dispatching, hs, hd]

/-- Settles O34: the instruction and `EXEC` both run the unrecognized function. -/
theorem unrecognized : Obligations.Unrecognized := by
  refine ⟨fun fc => ?_, fun s d fc hs => ⟨?_, fun rest hb hfc => ?_⟩⟩
  · have zero : fc = 0x00 ↔ fc.toNat = 0 := BitVec.toNat_inj.symm
    rw [isFunction_eq_false_iff, not_mem_functionCodes_iff, zero]
  · exact congrArg Host.Outcome.next (runUnrecognized_present hs fc)
  · have run := runExec_of_decodePdu hb hs (decodePdu_of_not_isFunction hfc rest)
    exact congrArg Host.Outcome.next (run.trans (runUnrecognized_present hs fc))

/-- Settles O4: the listed codes are the numbers outside the code map; the rest is the default row and its execution. -/
theorem undefinedCommands : Obligations.UndefinedCommands := fun c =>
  ⟨(isCommand_eq_false_iff c).trans (not_mem_commandCodes_iff c.toNat), decodeCmd_of_not_isCommand, fun _ => rfl⟩

end Sys2Proof.Machine
end

section
/-! PROOFS. The checksums (40_checksum.md R130 to R140). Eight division steps are linear over exclusive or, and shift out
a low byte that is zero; so the update through the table is the bit-serial one, and a CRC appended to its message
cancels. The LRC is the negated sum of the bytes. -/

namespace Sys2Proof.Machine

/-! The division steps (40_checksum.md R131). -/

theorem crcShift_xor (v w : Word) : crcShift (v ^^^ w) = crcShift v ^^^ crcShift w := by
  simp only [crcShift, BitVec.getLsbD_xor, BitVec.ushiftRight_xor_distrib]
  cases v.getLsbD 0 <;> cases w.getLsbD 0
  case true.true => simp [← BitVec.xor_assoc, BitVec.xor_comm _ 0xA001#16]
  all_goals simp [BitVec.xor_assoc, BitVec.xor_comm (0xA001#16)]

theorem crcShifts_xor (n : Nat) (v w : Word) : crcShifts n (v ^^^ w) = crcShifts n v ^^^ crcShifts n w := by
  induction n generalizing v w with
  | zero => rfl
  | succ n ih => simp only [crcShifts, crcShift_xor, ih]

/-- Zeros at the low end are shifted out, and the polynomial is never added. -/
theorem crcShifts_of_low_zero (n : Nat) {v : Word} (h : ∀ k < n, v.getLsbD k = false) : crcShifts n v = v >>> n := by
  induction n generalizing v with
  | zero => rfl
  | succ n ih =>
    have hv : crcShift v = v >>> 1 := by rw [crcShift, h 0 n.succ_pos]; rfl
    have hlow : ∀ k < n, (v >>> 1).getLsbD k = false := fun k hk => by
      simpa using h (1 + k) (by omega)
    rw [crcShifts, hv, ih hlow, ← BitVec.shiftRight_add, Nat.add_comm]

/-- A word and its low byte differ in the high byte alone. -/
theorem getLsbD_xor_lo8 (w : Word) {k : Nat} (hk : k < 8) : (w ^^^ (lo8 w).setWidth 16).getLsbD k = false := by
  simp [lo8, hk]; omega

theorem setWidth_ushiftRight_eight (b : Byte) : b.setWidth 16 >>> 8 = 0#16 := by
  ext k hk
  simp

/-- Eight steps on a word with its low byte taken away. -/
theorem crcShifts_xor_lo8 (w : Word) : crcShifts 8 (w ^^^ (lo8 w).setWidth 16) = w >>> 8 := by
  rw [crcShifts_of_low_zero 8 fun _ => getLsbD_xor_lo8 w, BitVec.ushiftRight_xor_distrib, setWidth_ushiftRight_eight,
    BitVec.xor_zero]

/-- Eight steps move the high byte down and add what the low byte leaves. -/
theorem crcShifts_eight (w : Word) : crcShifts 8 w = w >>> 8 ^^^ crcShifts 8 ((lo8 w).setWidth 16) := by
  rw [← crcShifts_xor_lo8, ← crcShifts_xor, BitVec.xor_assoc, BitVec.xor_self, BitVec.xor_zero]

/-! The table and the update through it (40_checksum.md R131 to R134). -/

theorem serialByte_eq (acc : Word) (b : Byte) : serialByte acc b = crcShifts 8 (acc ^^^ b.setWidth 16) := rfl

theorem crcTable_getD (b : Byte) : crcTable.getD b.toNat 0 = crcShifts 8 (b.setWidth 16) := by
  have entry : crcTable.getD b.toNat 0 = crcEntry b.toNat := by
    simp [crcTable, List.getElem?_range b.isLt]
  rw [entry, crcEntry, BitVec.ofNat_toNat]

/-- The update through the table is the bit-serial one (40_checksum.md R134). -/
theorem crcUpdate_crcTable : crcUpdate crcTable = serialByte := by
  funext acc b
  rw [crcUpdate, crcTable_getD, serialByte_eq, crcShifts_eight (acc ^^^ _), BitVec.ushiftRight_xor_distrib,
    setWidth_ushiftRight_eight, BitVec.xor_zero]

/-- `crc16` is its bit-serial form (40_checksum.md R134). -/
theorem crc16_eq_crcSerial (b : List Byte) : crc16 b = crcSerial b := by
  rw [crc16, crcWith, crcUpdate_crcTable, crcSerial]

/-- The table is the one the spec prints (40_checksum.md R132). -/
theorem crcTable_eq_crcTablePrinted : crcTable = crcTablePrinted := by
  decide +kernel

/-- Settles O5: an entry is eight division steps on its index, which are the bit-serial update of 0; the 256 entries are
compared one by one. -/
theorem crcTableEntries : Obligations.CrcTableEntries := by
  refine ⟨fun i hi => ?_, crcTable_eq_crcTablePrinted⟩
  have entry := crcTable_getD (BitVec.ofNat 8 i)
  rwa [BitVec.toNat_ofNat, Nat.mod_eq_of_lt hi, ← BitVec.zero_xor (x := BitVec.setWidth 16 _)] at entry

/-! `CRC16` and its laws (40_checksum.md R135, R136). -/

/-- A sound state holds the table once it has been built (40_checksum.md R133). -/
theorem State.Sound.ensureCrc_eq {s : State} (h : s.Sound) : s.ensureCrc = s.built := by
  unfold State.ensureCrc
  split
  · next hv => rw [State.built, ← h.crc hv, ← hv]
  · rfl

theorem State.crcOf_built (s : State) (b : List Byte) : s.built.crcOf b = crcSerial b := crc16_eq_crcSerial b

/-- Settles O6: the table is built, and the CRC through it is the bit-serial one. -/
theorem crc16Command : Obligations.Crc16Command := by
  intro s hs
  obtain ⟨sound, -⟩ := s.wf_iff.1 hs
  have run : exec .crc16 s = .next (runCrc16 s) := rfl
  rw [run, runCrc16, sound.ensureCrc_eq, State.crcOf_built]
  rfl

theorem crc16_append (a b : List Byte) : crc16 (a ++ b) = b.foldl (crcUpdate crcTable) (crc16 a) := List.foldl_append

/-- An accumulator cancels against its own two bytes, low byte first. -/
theorem serialByte_lo8_hi8 (c : Word) : serialByte (serialByte c (lo8 c)) (hi8 c) = 0 := by
  have high : c >>> 8 = (hi8 c).setWidth 16 := by
    apply BitVec.eq_of_toNat_eq
    rw [BitVec.toNat_ushiftRight, BitVec.toNat_setWidth, hi8_toNat]; omega
  rw [serialByte_eq, serialByte_eq, crcShifts_xor_lo8, high, BitVec.xor_self]
  rfl

/-- A message followed by its CRC has CRC 0 (40_checksum.md R136). -/
theorem crc16_residue (m : List Byte) : crc16 (m ++ [lo8 (crc16 m), hi8 (crc16 m)]) = 0 := by
  rw [crc16_append, crcUpdate_crcTable]
  exact serialByte_lo8_hi8 (crc16 m)

/-- Settles O7: a fold continues over a concatenation; the residue is the cancellation above. -/
theorem crcLaws : Obligations.CrcLaws :=
  ⟨rfl, crc16_append, crc16_residue, by rw [crc16_eq_crcSerial]; rfl⟩

/-! `LRC` and its laws (40_checksum.md R138 to R140). -/

/-- The wrapping sum is the sum of the numbers, reduced once (40_checksum.md R140). -/
theorem foldl_add_eq_ofNat_sum (b : List Byte) (acc : Byte) :
    b.foldl (· + ·) acc = acc + BitVec.ofNat 8 (b.map BitVec.toNat).sum := by
  induction b generalizing acc with
  | nil => simp
  | cons x xs ih => simp [ih, BitVec.add_assoc, BitVec.ofNat_add]

/-- The LRC is the negated sum of the bytes (40_checksum.md R138). -/
theorem lrc_eq_neg_sum (b : List Byte) : lrc b = -BitVec.ofNat 8 (b.map BitVec.toNat).sum := by
  rw [lrc, foldl_add_eq_ofNat_sum, BitVec.zero_add, BitVec.zero_sub]

theorem lrc_toNat (b : List Byte) : (lrc b).toNat = (256 - (b.map BitVec.toNat).sum % 256) % 256 := by
  rw [lrc_eq_neg_sum, BitVec.toNat_neg, BitVec.toNat_ofNat]

/-- Settles O8: the LRC as a number, zero-extended. -/
theorem lrcCommand : Obligations.LrcCommand := by
  intro s
  have run : exec .lrc s = .next (runLrc s) := rfl
  rw [run, ← lrc_toNat, BitVec.ofNat_toNat]
  rfl

/-- The bytes and their LRC sum to a multiple of 256 (40_checksum.md R140). -/
theorem sum_add_lrc_mod (b : List Byte) : ((b.map BitVec.toNat).sum + (lrc b).toNat) % 256 = 0 := by
  rw [lrc_toNat]; omega

/-- Bytes that sum to a multiple of 256 have LRC 0 (40_checksum.md R139). -/
theorem lrc_eq_zero_of_sum_mod {b : List Byte} (h : (b.map BitVec.toNat).sum % 256 = 0) : lrc b = 0 := by
  apply BitVec.eq_of_toNat_eq
  rw [lrc_toNat, h]
  rfl

theorem lrc_append_lrc (b : List Byte) : lrc (b ++ [lrc b]) = 0 :=
  lrc_eq_zero_of_sum_mod (by simpa using sum_add_lrc_mod b)

/-- The order of the bytes does not matter (40_checksum.md R140). -/
theorem lrc_perm {a b : List Byte} (h : a.Perm b) : lrc a = lrc b := by
  rw [lrc_eq_neg_sum, lrc_eq_neg_sum, (h.map BitVec.toNat).sum_eq]

/-- Settles O9: each law from the LRC as the negated sum. -/
theorem lrcLaws : Obligations.LrcLaws :=
  ⟨rfl, fun b => ⟨sum_add_lrc_mod b, lrc_append_lrc b⟩, fun _ _ => lrc_perm⟩

end Sys2Proof.Machine
end

section
/-! PROOFS. The codec primitives (41_hex_mbap.md R150 to R158). A hex digit is a letter of the alphabet and a
character's value is a number, so encoding and decoding are the spec's arithmetic; on the alphabet, and only there, the
two undo each other. The bytes of a header are its fields, so parsing a header that was built returns them. -/

namespace Sys2Proof.Machine

/-! Hex digits (41_hex_mbap.md R150, R151). -/

/-- A nibble's character is the one at its place in the alphabet (41_hex_mbap.md R150). -/
theorem hexDigit_eq_getD (n : BitVec 4) : hexDigit n = hexAlphabet.getD n.toNat 0 := by
  decide +revert

theorem hexDigit_mem_hexAlphabet (n : BitVec 4) : hexDigit n ∈ hexAlphabet := by
  decide +revert

@[simp] theorem hexValue_hexDigit (n : BitVec 4) : hexValue (hexDigit n) = n := by
  decide +revert

/-- A character is the digit of its value exactly when it is one of the sixteen (41_hex_mbap.md R154). -/
theorem hexDigit_hexValue_eq_iff {c : Byte} : hexDigit (hexValue c) = c ↔ c ∈ hexAlphabet := by
  have letters : ∀ c ∈ hexAlphabet, hexDigit (hexValue c) = c := by decide
  exact ⟨fun h => h ▸ hexDigit_mem_hexAlphabet _, letters c⟩

/-- The distance to a character at most 15 below fits a nibble. -/
theorem toNat_sub_setWidth_four {c k : Byte} (low : k ≤ c) (high : c.toNat < k.toNat + 16) :
    ((c - k).setWidth 4).toNat = c.toNat - k.toNat := by
  rw [BitVec.toNat_setWidth, BitVec.toNat_sub_of_le low]; omega

/-- The value of a character as a number (41_hex_mbap.md R151). -/
theorem hexValue_toNat (c : Byte) : (hexValue c).toNat = digitOf c := by
  unfold hexValue digitOf
  split
  · next decimal => exact toNat_sub_setWidth_four decimal.1 (show c.toNat < 0x30 + 16 by omega)
  · split
    · next letter =>
      have low : 0x37#8 ≤ c := show 0x37 ≤ c.toNat by omega
      exact toNat_sub_setWidth_four low (show c.toNat < 0x37 + 16 by omega)
    · rfl

/-! Bytes and their nibbles. -/

theorem nibbles_append_toNat (a b : BitVec 4) : (a ++ b : BitVec 8).toNat = 16 * a.toNat + b.toNat := by
  have h : (a ++ b : BitVec 8).toNat = a.toNat <<< 4 ||| b.toNat := BitVec.toNat_append a b
  rw [h, ← Nat.shiftLeft_add_eq_or_of_lt b.isLt, Nat.shiftLeft_eq, Nat.mul_comm]

theorem high_nibble_toNat (x : Byte) : (x.extractLsb' 4 4).toNat = x.toNat / 16 := by
  rw [BitVec.extractLsb'_toNat, Nat.shiftRight_eq_div_pow]; omega

theorem low_nibble_toNat (x : Byte) : (x.extractLsb' 0 4).toNat = x.toNat % 16 := by
  rw [BitVec.extractLsb'_toNat, Nat.shiftRight_zero]

theorem nibbles_append (x : Byte) : (x.extractLsb' 4 4 ++ x.extractLsb' 0 4 : BitVec 8) = x := by
  apply BitVec.eq_of_toNat_eq
  rw [nibbles_append_toNat, high_nibble_toNat, low_nibble_toNat, Nat.div_add_mod]

theorem high_nibble_append (a b : BitVec 4) : (a ++ b : BitVec 8).extractLsb' 4 4 = a := by
  apply BitVec.eq_of_toNat_eq
  rw [high_nibble_toNat, nibbles_append_toNat]; omega

theorem low_nibble_append (a b : BitVec 4) : (a ++ b : BitVec 8).extractLsb' 0 4 = b := by
  apply BitVec.eq_of_toNat_eq
  rw [low_nibble_toNat, nibbles_append_toNat]; omega

/-! `HEXENC` and `HEXDEC` (41_hex_mbap.md R150 to R153). -/

@[simp] theorem hexenc_cons (x : Byte) (b : List Byte) :
    hexenc (x :: b) = hexDigit (x.extractLsb' 4 4) :: hexDigit (x.extractLsb' 0 4) :: hexenc b := rfl

@[simp] theorem hexdec_cons_cons (c d : Byte) (t : List Byte) :
    hexdec (c :: d :: t) = (hexValue c ++ hexValue d : BitVec 8) :: hexdec t := rfl

/-- The encoding by the alphabet (41_hex_mbap.md R150). -/
theorem hexenc_eq_flatMap (b : List Byte) :
    hexenc b =
      b.flatMap fun x => [hexAlphabet.getD (x.toNat / 16) 0, hexAlphabet.getD (x.toNat % 16) 0] := by
  simp only [hexenc, hexDigit_eq_getD, high_nibble_toNat, low_nibble_toNat]

/-- Two characters make the byte `16 * digit(c) + digit(d)` (41_hex_mbap.md R151). -/
theorem hexValue_append_hexValue (c d : Byte) :
    (hexValue c ++ hexValue d : BitVec 8) = BitVec.ofNat 8 (16 * digitOf c + digitOf d) := by
  rw [← hexValue_toNat, ← hexValue_toNat, ← nibbles_append_toNat, BitVec.ofNat_toNat, BitVec.setWidth_eq]

/-- The decoding pair by pair (41_hex_mbap.md R151). -/
theorem hexdec_eq_map : ∀ t : List Byte,
    hexdec t =
      (List.range (t.length / 2)).map fun k =>
        BitVec.ofNat 8 (16 * digitOf (t.getD (2 * k) 0) + digitOf (t.getD (2 * k + 1) 0))
  | [] => rfl
  | [_] => by simp [hexdec]
  | c :: d :: t => by
    have pairs : (c :: d :: t).length / 2 = t.length / 2 + 1 := by simp only [List.length_cons]; omega
    rw [hexdec_cons_cons, hexValue_append_hexValue, hexdec_eq_map t, pairs, List.range_succ_eq_map, List.map_cons,
      List.map_map]
    rfl

/-- Settles O10: the encoding by the alphabet, within the bound. -/
theorem hexencCommand : Obligations.HexencCommand := by
  intro s
  have run : exec .hexenc s = .next (runHexenc s) := rfl
  rw [run, runHexenc, hexenc_eq_flatMap]
  rfl

/-- Settles O11: the decoding pair by pair. -/
theorem hexdecCommand : Obligations.HexdecCommand := by
  intro s
  have run : exec .hexdec s = .next (runHexdec s) := rfl
  rw [run, runHexdec, hexdec_eq_map]
  rfl

/-! The laws of the hex pair (41_hex_mbap.md R154). -/

@[simp] theorem hexdec_hexenc (b : List Byte) : hexdec (hexenc b) = b := by
  induction b with
  | nil => rfl
  | cons x b ih => rw [hexenc_cons, hexdec_cons_cons, hexValue_hexDigit, hexValue_hexDigit, nibbles_append, ih]

/-- Encoding a decoded text gives back its pairs of upper-case hex characters and nothing else. -/
theorem hexenc_hexdec_eq_iff : ∀ t : List Byte,
    hexenc (hexdec t) = t ↔ t.length % 2 = 0 ∧ ∀ c ∈ t, c ∈ hexAlphabet
  | [] => by simp [hexdec, hexenc]
  | [_] => by simp [hexdec, hexenc]
  | c :: d :: t => by
    rw [hexdec_cons_cons, hexenc_cons, high_nibble_append, low_nibble_append]
    simp only [List.cons.injEq, hexDigit_hexValue_eq_iff, hexenc_hexdec_eq_iff t, List.forall_mem_cons,
      List.length_cons, Nat.add_assoc, Nat.add_mod_right]
    tauto

/-- Settles O12: each law above, and the two texts that decode to the same byte. -/
theorem hexRoundTrip : Obligations.HexRoundTrip :=
  ⟨fun b => ⟨hexdec_hexenc b, length_hexenc b⟩, hexenc_hexdec_eq_iff, length_hexdec, rfl, rfl⟩

/-! `MBAP_BUILD` and `MBAP_PARSE` (41_hex_mbap.md R155 to R157). -/

/-- The high byte of a 16-bit count (00_scope.md R9). -/
theorem hi8_ofNat (n : Nat) : hi8 (BitVec.ofNat 16 n) = BitVec.ofNat 8 (n / 256) := by
  apply BitVec.eq_of_toNat_eq
  rw [hi8_toNat, BitVec.toNat_ofNat, BitVec.toNat_ofNat]; omega

/-- The low byte of a 16-bit count (00_scope.md R9). -/
theorem lo8_ofNat (n : Nat) : lo8 (BitVec.ofNat 16 n) = BitVec.ofNat 8 (n % 256) := by
  apply BitVec.eq_of_toNat_eq
  rw [lo8_toNat, BitVec.toNat_ofNat, BitVec.toNat_ofNat]; omega

/-- Two bytes make the word `a * 256 + b` (00_scope.md R9). -/
theorem u16be_eq_ofNat (a b : Byte) : u16be a b = BitVec.ofNat 16 (a.toNat * 256 + b.toNat) := by
  rw [← u16be_toNat, BitVec.ofNat_toNat, BitVec.setWidth_eq]

/-- The seven bytes of a header, written out (41_hex_mbap.md R155). -/
theorem mbapHeader_cons (w : Word) (u : Byte) (t : List Byte) :
    mbapHeader w (u :: t) =
      [hi8 w, lo8 w, 0, 0] ++
        [BitVec.ofNat 8 ((t.length + 1) / 256), BitVec.ofNat 8 ((t.length + 1) % 256), u] := by
  rw [← hi8_ofNat, ← lo8_ofNat]
  rfl

/-- Settles O13: the header of a message written out, and the fields as numbers. -/
theorem mbapCommands : Obligations.MbapCommands := by
  intro s
  have build : exec .mbapBuild s = .next (runMbapBuild s) := rfl
  have parse : exec .mbapParse s = .next (runMbapParse s) := rfl
  refine ⟨fun hb => ?_, fun u t hb => ?_, ?_⟩
  · rw [build, runMbapBuild, hb]
    rfl
  · rw [build, runMbapBuild, hb, mbapHeader_cons, if_neg (by simp)]
    rfl
  · simp only [parse, runMbapParse, u16be_eq_ofNat]
    rfl

/-! A header that was built (41_hex_mbap.md R158). -/

/-- The transaction id. -/
theorem field_zero_mbapHeader (w : Word) (m rest : List Byte) : field (mbapHeader w m ++ rest) 0 = w :=
  u16be_hi_lo w

/-- The protocol id is 0. -/
theorem field_two_mbapHeader (w : Word) (m rest : List Byte) : field (mbapHeader w m ++ rest) 2 = 0 := by
  change u16be 0 0 = 0
  decide

/-- The length field holds the message length. -/
theorem field_four_mbapHeader (w : Word) (m rest : List Byte) :
    field (mbapHeader w m ++ rest) 4 = BitVec.ofNat 16 m.length := u16be_hi_lo _

/-- Parsing a header that was built returns its fields. -/
theorem runMbapParse_mbapHeader {s : State} {w : Word} {m rest : List Byte} (h : s.rx.bytes = mbapHeader w m ++ rest) :
    runMbapParse s =
      { s with mtid := w, proto := 0, mlen := BitVec.ofNat 16 m.length, unit := m.headD 0, status := .ok } := by
  have long : ¬ (mbapHeader w m ++ rest).length < 7 := by simp
  rw [runMbapParse, h, if_neg long, field_zero_mbapHeader, field_two_mbapHeader, field_four_mbapHeader]
  rfl

/-- Settles O14: the fields of the header, and the length field of the frame. -/
theorem mbapHeaderLaws : Obligations.MbapHeaderLaws := by
  intro w m rest one_le le
  refine ⟨fun s hs => congrArg Host.Outcome.next (runMbapParse_mbapHeader hs), ?_⟩
  have len : (field (mbapFrame w m) 4).toNat = m.length := by
    rw [mbapFrame, field_four_mbapHeader, BitVec.toNat_ofNat, Nat.mod_eq_of_lt (by omega)]
  rw [length_mbapFrame w m one_le, len, Nat.add_comm]

end Sys2Proof.Machine
end

section
/-! PROOFS. The frame encoders (42_frame_encode.md R171 to R174). A message that fits makes the frame of its transport,
and the decoder of that transport takes the same frame apart. -/

namespace Sys2Proof.Machine

/-! The frames written out (30_encoding.md R81 to R83). -/

/-- The LRC as the byte of a number (40_checksum.md R138). -/
theorem lrc_eq_ofNat (b : List Byte) : lrc b = BitVec.ofNat 8 (256 - (b.map BitVec.toNat).sum % 256) := by
  apply BitVec.eq_of_toNat_eq
  rw [lrc_toNat, BitVec.toNat_ofNat]

/-- An MBAP frame: the transaction id, two zero bytes, the length, the message (30_encoding.md R83). -/
theorem mbapFrame_eq (w : Word) {m : List Byte} (h : m ≠ []) :
    mbapFrame w m =
      [hi8 w, lo8 w, 0, 0] ++ [BitVec.ofNat 8 (m.length / 256), BitVec.ofNat 8 (m.length % 256)] ++ m := by
  obtain ⟨u, t, rfl⟩ := List.exists_cons_of_ne_nil h
  rw [mbapFrame, mbapHeader_cons]
  rfl

/-- Settles O15: in a sound state the table built is the table, and the CRC through it is the bit-serial one. -/
theorem encRtuCommand : Obligations.EncRtuCommand := by
  intro s hs
  obtain ⟨sound, -⟩ := s.wf_iff.1 hs
  have run : exec .encRtu s = .next (runEncRtu s) := rfl
  rw [run, runEncRtu, sound.ensureCrc_eq, State.crcOf_built]
  rfl

/-- Settles O16: the LRC as a number and the hex characters by the alphabet. -/
theorem encAsciiCommand : Obligations.EncAsciiCommand := by
  intro s
  have run : exec .encAscii s = .next (runEncAscii s) := rfl
  rw [run, runEncAscii, asciiFrame, hexenc_eq_flatMap, lrc_eq_ofNat]
  rfl

/-- Settles O17: a message that is not refused has a first byte, and its frame is the one written out. -/
theorem encMbapCommand : Obligations.EncMbapCommand := by
  intro s
  have run : exec .encMbap s = .next (runEncMbap s) := rfl
  rw [run, runEncMbap]
  refine congrArg Host.Outcome.next (ite_congr rfl (fun _ => rfl) fun fits => ?_)
  have nonempty : s.pdu.bytes ≠ [] := List.ne_nil_of_length_pos (by omega)
  rw [mbapFrame_eq _ nonempty]
  rfl

/-! What the encoders leave in `TXBUF` for a message that fits (42_frame_encode.md R171 to R173). -/

/-- A frame within capacity is read back from the buffer it was written to. -/
theorem ByteBuf.bytes_write_of_le (b : ByteBuf) {m : List Byte} (h : m.length ≤ Config.bufMax) :
    (b.write m).bytes = m := b.bytes_write m (Nat.lt_of_le_of_lt h (by decide))

section
variable {s : State} (two : 2 ≤ s.pdu.bytes.length)
include two

theorem runEncRtu_tx_bytes (fits : s.pdu.bytes.length + 2 ≤ Config.bufMax) :
    (runEncRtu s).tx.bytes = rtuFrame (s.ensureCrc.crcOf s.pdu.bytes) s.pdu.bytes := by
  rw [runEncRtu, if_neg (by omega)]
  exact ByteBuf.bytes_write_of_le _ ((length_rtuFrame _ _).trans_le fits)

theorem runEncAscii_tx_bytes (fits : 2 * s.pdu.bytes.length + 5 ≤ Config.bufMax) :
    (runEncAscii s).tx.bytes = asciiFrame s.pdu.bytes := by
  rw [runEncAscii, if_neg (by omega)]
  exact ByteBuf.bytes_write_of_le _ ((length_asciiFrame _).trans_le fits)

theorem runEncMbap_tx_bytes (fits : s.pdu.bytes.length + 6 ≤ Config.bufMax) :
    (runEncMbap s).tx.bytes = mbapFrame s.mtid s.pdu.bytes := by
  rw [runEncMbap, if_neg (by omega)]
  exact ByteBuf.bytes_write_of_le _ ((length_mbapFrame _ _ (by omega)).trans_le fits)

end

/-- In a sound state the CRC of an RTU frame is the bit-serial one (40_checksum.md R134). -/
theorem State.Sound.runEncRtu_tx_bytes_serial {s : State} (h : s.Sound) (two : 2 ≤ s.pdu.bytes.length)
    (fits : s.pdu.bytes.length + 2 ≤ Config.bufMax) :
    (runEncRtu s).tx.bytes = rtuFrame (crcSerial s.pdu.bytes) s.pdu.bytes := by
  rw [runEncRtu_tx_bytes two fits, h.ensureCrc_eq, State.crcOf_built]

/-! The decoders on built frames (42_frame_encode.md R174). -/

/-- `DEC_RTU` accepts a message followed by its CRC. -/
theorem decRtuFrame_rtuFrame {m : List Byte} (two : 2 ≤ m.length) (s : State) :
    decRtuFrame (rtuFrame (s.ensureCrc.crcOf m) m) s = s.ensureCrc.accept m := by
  have message : (rtuFrame (s.ensureCrc.crcOf m) m).take m.length = m := List.take_left
  have low : (rtuFrame (s.ensureCrc.crcOf m) m).getD m.length 0 = lo8 (s.ensureCrc.crcOf m) := by
    simp [rtuFrame]
  have high : (rtuFrame (s.ensureCrc.crcOf m) m).getD (m.length + 1) 0 = hi8 (s.ensureCrc.crcOf m) := by
    simp [rtuFrame]
  simp only [decRtuFrame, length_rtuFrame, Nat.reduceSubDiff, Nat.add_sub_cancel, message, low, high, u16le_lo_hi,
    ne_eq, not_true_eq_false, if_false]
  rw [if_neg (by omega), if_neg (by omega)]

/-- No hex digit is a ':' (42_frame_encode.md R174). -/
theorem colon_notMem_hexenc (b : List Byte) : 0x3A#8 ∉ hexenc b := by
  have digit : ∀ n : BitVec 4, 0x3A#8 ≠ hexDigit n := by decide
  simp [hexenc, digit]

/-- Behind its first character an ASCII frame has no ':'. -/
theorem colon_notMem_tail_asciiFrame (m : List Byte) : 0x3A#8 ∉ (asciiFrame m).tail := by
  have tail : (asciiFrame m).tail = hexenc (m ++ [lrc m]) ++ [0x0D#8, 0x0A#8] := rfl
  rw [tail, List.mem_append]
  exact not_or_intro (colon_notMem_hexenc _) (by decide)

/-- An ASCII frame has one ':', its first character (42_frame_encode.md R174). -/
theorem asciiFrame_colon_iff (m : List Byte) (k : Nat) : (asciiFrame m)[k]? = some 0x3A#8 ↔ k = 0 := by
  cases k with
  | zero => exact iff_of_true rfl rfl
  | succ k => exact iff_of_false (fun h => colon_notMem_tail_asciiFrame m (List.mem_of_getElem? h)) (Nat.succ_ne_zero k)

theorem fromLastColon_eq_none : ∀ {t : List Byte}, 0x3A#8 ∉ t → fromLastColon t = none
  | [], _ => rfl
  | c :: t, h => by
    obtain ⟨hc, ht⟩ := List.ne_and_not_mem_of_not_mem_cons h
    rw [fromLastColon, fromLastColon_eq_none ht]
    exact if_neg (Ne.symm hc)

/-- The text from the last ':' of an ASCII frame is the frame (43_frame_decode.md R189). -/
theorem fromLastColon_asciiFrame (m : List Byte) : fromLastColon (asciiFrame m) = some (asciiFrame m) := by
  have frame : asciiFrame m = 0x3A#8 :: (asciiFrame m).tail := rfl
  rw [frame, fromLastColon, fromLastColon_eq_none (colon_notMem_tail_asciiFrame m)]
  rfl

/-- `DEC_ASCII` accepts a message followed by its LRC, hex coded. -/
theorem decAsciiFrame_asciiFrame {m : List Byte} (two : 2 ≤ m.length) (s : State) :
    decAsciiFrame (asciiFrame m) s = s.accept m := by
  have start : (asciiFrame m).headD 0 = 0x3A#8 := rfl
  have cr : (asciiFrame m).getD (2 * m.length + 3) 0 = 0x0D#8 := by simp [asciiFrame, Nat.mul_add]
  have lf : (asciiFrame m).getD (2 * m.length + 4) 0 = 0x0A#8 := by simp [asciiFrame, Nat.mul_add]
  have digits : ((asciiFrame m).drop 1).take (2 * m.length + 2) = hexenc (m ++ [lrc m]) := by
    have body : (hexenc (m ++ [lrc m])).length = 2 * m.length + 2 := by rw [length_hexenc, List.length_append]; rfl
    rw [← body]
    exact List.take_left
  have long : ¬ (m ++ [lrc m]).length < 3 := by rw [List.length_append, List.length_singleton]; omega
  simp only [decAsciiFrame, length_asciiFrame, Nat.reduceSubDiff, start, cr, lf, digits, hexdec_hexenc,
    List.dropLast_concat, List.getLastD_concat, ne_eq, not_true_eq_false, or_self, if_false, if_neg long]
  exact if_neg (by omega)

/-- `DEC_MBAP` accepts a message behind its header and reads the header's fields. -/
theorem decMbapFrame_mbapFrame (w : Word) {m : List Byte} (two : 2 ≤ m.length) (fits : m.length ≤ 65535) (s : State) :
    decMbapFrame (mbapFrame w m) s =
      State.accept { s with mtid := w, proto := 0, mlen := BitVec.ofNat 16 m.length } m := by
  have message : (mbapFrame w m).drop 6 = m := by
    rw [mbapFrame_eq w (List.ne_nil_of_length_pos (by omega))]
    rfl
  have len : (BitVec.ofNat 16 m.length).toNat = m.length := by
    rw [BitVec.toNat_ofNat, Nat.mod_eq_of_lt (by omega)]
  rw [decMbapFrame, message, length_mbapFrame w m (by omega), mbapFrame, field_zero_mbapHeader, field_two_mbapHeader,
    field_four_mbapHeader, len, if_neg (by omega), if_neg (by omega), if_neg (not_not_intro rfl), if_neg (by omega)]

/-! The decoders on a state that holds a built frame in `RXBUF`. -/

theorem State.Sound.runDecRtu_of_rtuFrame {r : State} (h : r.Sound) {m : List Byte} (two : 2 ≤ m.length)
    (frame : r.rx.bytes = rtuFrame (crcSerial m) m) : runDecRtu r = r.built.accepted m := by
  have crc : crcSerial m = r.ensureCrc.crcOf m := by rw [h.ensureCrc_eq, State.crcOf_built]
  rw [runDecRtu, frame, crc, decRtuFrame_rtuFrame two, h.ensureCrc_eq]
  rfl

theorem runDecAscii_of_asciiFrame {r : State} {m : List Byte} (two : 2 ≤ m.length)
    (frame : r.rx.bytes = asciiFrame m) : runDecAscii r = r.accepted m := by
  rw [runDecAscii, frame, fromLastColon_asciiFrame]
  exact decAsciiFrame_asciiFrame two r

theorem runDecMbap_of_mbapFrame {r : State} {w : Word} {m : List Byte} (two : 2 ≤ m.length) (fits : m.length ≤ 65535)
    (frame : r.rx.bytes = mbapFrame w m) :
    runDecMbap r = State.accepted { r with mtid := w, proto := 0, mlen := BitVec.ofNat 16 m.length } m := by
  rw [runDecMbap, frame]
  exact decMbapFrame_mbapFrame w two fits r

/-- Settles O18: the encoder leaves the frame of the message (`runEncRtu_tx_bytes` and the like), and the decoder takes
that frame apart. -/
theorem decodersAcceptEncoders : Obligations.DecodersAcceptEncoders := by
  intro s r hs hr two
  obtain ⟨soundS, -⟩ := s.wf_iff.1 hs
  obtain ⟨soundR, -⟩ := r.wf_iff.1 hr
  refine ⟨fun fits => ⟨runEncRtu s, rfl, ?_⟩, fun fits => ⟨runEncAscii s, rfl, ?_⟩, fun fits => ⟨runEncMbap s, rfl, ?_⟩⟩
  · rw [soundS.runEncRtu_tx_bytes_serial two fits]
    exact ⟨length_rtuFrame _ _, fun frame => congrArg Host.Outcome.next (soundR.runDecRtu_of_rtuFrame two frame)⟩
  · rw [runEncAscii_tx_bytes two fits]
    exact ⟨length_asciiFrame _, asciiFrame_colon_iff _,
      fun frame => congrArg Host.Outcome.next (runDecAscii_of_asciiFrame two frame)⟩
  · rw [runEncMbap_tx_bytes two fits]
    exact ⟨length_mbapFrame _ _ (by omega),
      fun frame => congrArg Host.Outcome.next (runDecMbap_of_mbapFrame two (by omega) frame)⟩

end Sys2Proof.Machine
end

section
/-! PROOFS. The replies of the slave (42_frame_encode.md R175). A slave cycle that ends `OK` is a decoded request, a
reply message of 3 to 253 bytes, and the encoder of the same transport run on it. -/

namespace Sys2Proof.Machine

/-! The reply message. -/

/-- A reply PDU has at least its function code and one byte (30_encoding.md R85). -/
theorem Answered.two_le_length_replyPdu {s : State} {fc : Byte} {r : State × Answer} (h : Answered s fc r) :
    2 ≤ (replyPdu fc r.2).length := by
  rcases h with ⟨c, -, rfl⟩ | ⟨p, hr, hp, -, -⟩
  · exact Nat.le_refl 2
  · rw [hr]
    exact Nat.succ_le_succ hp

/-- A request that ends `OK` was answered, and its reply message is the unit id and the answer's reply PDU
(45_request_exec.md R230). -/
theorem runRequest_of_ok {i : Instr} (hi : i.layer = .wire) {s : State} (ok : (runRequest i s).status = .ok) :
    ∃ r, Answered (s.setSphase .dispatching) ((encode i).headD 0) r ∧
      runRequest i s = r.1.reply s.reqUnit (replyPdu ((encode i).headD 0) r.2) := by
  obtain ⟨f, hf, hspec⟩ := wire_serve i hi
  cases hs : s.store s.reqUnit with
  | none =>
    rw [(hf s).2, serve_absent _ f hs] at ok
    cases ok
  | some d => exact ⟨_, (hspec s.reqUnit d (s.setSphase .dispatching) hs).1, (hf s).2.trans (serve_present _ f hs)⟩

/-- `EXEC` that ends `OK` ran the request its message decodes to (45_request_exec.md R230). -/
theorem runExec_of_ok {s : State} (ok : (runExec s).status = .ok) :
    ∃ i, decodePdu s.pdu.bytes.tail = .ok i ∧ runExec s = runRequest i s := by
  simp only [runExec] at ok
  split at ok
  · next hb =>
    split at ok
    · cases ok
    · next hs =>
      split at ok
      · cases ok
      · next hd => exact ⟨_, by rw [hb]; exact hd, runExec_of_decodePdu hb hs hd⟩
  · cases ok

/-- A reply message has 3 to 253 bytes (42_frame_encode.md R175). -/
theorem runExec_pdu_length {s : State} (ok : (runExec s).status = .ok) :
    3 ≤ (runExec s).pdu.bytes.length ∧ (runExec s).pdu.bytes.length ≤ 253 := by
  obtain ⟨i, hd, run⟩ := runExec_of_ok ok
  rw [run] at ok ⊢
  obtain ⟨r, answered, reply⟩ := runRequest_of_ok (layer_of_decodePdu hd) ok
  have low := answered.two_le_length_replyPdu
  have high := answered.length_replyPdu
  have bytes : (runRequest i s).pdu.bytes = s.reqUnit :: replyPdu ((encode i).headD 0) r.2 := by
    rw [reply]
    exact ByteBuf.bytes_write _ _ (by rw [List.length_cons]; omega)
  rw [bytes, List.length_cons]
  omega

/-! The slave cycle (45_request_exec.md R254 to R256). -/

/-- The state in which a slave cycle builds its reply frame: the frame decoded, the request executed
(45_request_exec.md R254). -/
def replying (dec : State → State) (s : State) : State := (runExec (dec (s.setSphase .decoding))).setSphase .replying

/-- A slave cycle that ends `OK` decoded a frame, executed its request, and ran its encoder on the reply. -/
theorem slaveCycle_of_ok {dec enc : State → State} {s : State} (run : s.run = true)
    (ok : (slaveCycle dec enc s).status = .ok) :
    (dec (s.setSphase .decoding)).status = .ok ∧ (replying dec s).status = .ok ∧
      slaveCycle dec enc s = ((enc (replying dec s)).setSphase .idle).setStatus .ok := by
  simp only [slaveCycle, run, Bool.true_eq_false, if_false] at ok ⊢
  split at ok
  · next discarded => exact absurd ok discarded
  · next decoded =>
    split at ok
    · next discarded => exact absurd ok discarded
    · next executed =>
      rw [if_neg decoded, if_neg executed]
      exact ⟨not_not.1 decoded, not_not.1 executed, rfl⟩

/-- In a sound state the reply is built in a sound state. -/
theorem replying_sound {dec : State → State} (hdec : ∀ s, s.Sound → (dec s).Sound) {s : State} (h : s.Sound) :
    (replying dec s).Sound :=
  (runExec_sound (hdec _ (h.setSphase _))).setSphase _

/-- `t` is left by a slave cycle that replied: the message has 3 to 253 bytes and `frame` of it is in `TXBUF`. -/
def Replied (frame : List Byte → List Byte) (t : State) : Prop :=
  (3 ≤ t.pdu.bytes.length ∧ t.pdu.bytes.length ≤ 253) ∧ t.tx.bytes = frame t.pdu.bytes

/-- A slave cycle that ends `OK` replies with the frame its encoder makes of a message of 3 to 253 bytes. -/
theorem slaveCycle_replied {dec enc : State → State} {frame : List Byte → List Byte} {s : State} (run : s.run = true)
    (ok : (slaveCycle dec enc s).status = .ok) (pdu : (enc (replying dec s)).pdu = (replying dec s).pdu)
    (tx : 2 ≤ (replying dec s).pdu.bytes.length → (replying dec s).pdu.bytes.length ≤ 253 →
      (enc (replying dec s)).tx.bytes = frame (replying dec s).pdu.bytes) :
    Replied frame (slaveCycle dec enc s) := by
  obtain ⟨-, executed, cycle⟩ := slaveCycle_of_ok run ok
  obtain ⟨low, high⟩ : 3 ≤ (replying dec s).pdu.bytes.length ∧ (replying dec s).pdu.bytes.length ≤ 253 :=
    runExec_pdu_length executed
  rw [cycle]
  simp only [Replied, State.setStatus_pdu, State.setStatus_tx, State.setSphase_pdu, State.setSphase_tx, pdu]
  exact ⟨⟨low, high⟩, tx (by omega) high⟩

/-! The three transports. -/

theorem runEncRtu_pdu (s : State) : (runEncRtu s).pdu = s.pdu := by
  have keeps : runEncRtu s = _ := runEncRtu_keeps s
  rw [keeps]

theorem runEncAscii_pdu (s : State) : (runEncAscii s).pdu = s.pdu := by
  have keeps : runEncAscii s = _ := runEncAscii_keeps s
  rw [keeps]

theorem runEncMbap_pdu (s : State) : (runEncMbap s).pdu = s.pdu := by
  have keeps : runEncMbap s = _ := runEncMbap_keeps s
  rw [keeps]

theorem runSlaveRtu_replied {s : State} (h : s.Sound) (run : s.run = true) (ok : (runSlaveRtu s).status = .ok) :
    Replied (fun m => rtuFrame (crcSerial m) m) (runSlaveRtu s) :=
  slaveCycle_replied run ok (runEncRtu_pdu _) fun low high =>
    (replying_sound (fun _ => runDecRtu_sound) h).runEncRtu_tx_bytes_serial low (by rw [bufMax_eq]; omega)

theorem runSlaveAscii_replied {s : State} (run : s.run = true) (ok : (runSlaveAscii s).status = .ok) :
    Replied asciiFrame (runSlaveAscii s) :=
  slaveCycle_replied run ok (runEncAscii_pdu _) fun low high =>
    runEncAscii_tx_bytes low (by rw [bufMax_eq]; omega)

/-- An accepted MBAP frame leaves its transaction id in `MTID` (43_frame_decode.md R191). -/
theorem runDecMbap_mtid {s : State} (ok : (runDecMbap s).status = .ok) :
    (runDecMbap s).mtid = field s.rx.bytes 0 := by
  simp only [runDecMbap, decMbapFrame] at ok ⊢
  split_ifs at ok ⊢
  · cases ok
  · cases ok
  · cases ok
  · cases ok
  · rfl

theorem runExec_mtid (s : State) : (runExec s).mtid = s.mtid := by
  have keeps : runExec s = _ := runExec_keeps s
  rw [keeps]

theorem runSlaveMbap_replied {s : State} (run : s.run = true) (ok : (runSlaveMbap s).status = .ok) :
    Replied (mbapFrame (field s.rx.bytes 0)) (runSlaveMbap s) := by
  obtain ⟨decoded, -⟩ := slaveCycle_of_ok run ok
  have mtid : (replying runDecMbap s).mtid = field s.rx.bytes 0 :=
    (runExec_mtid _).trans (runDecMbap_mtid decoded)
  refine slaveCycle_replied run ok (runEncMbap_pdu _) fun low high => ?_
  rw [runEncMbap_tx_bytes low (by rw [bufMax_eq]; omega), mtid]

/-- Settles O41: each cycle replies with its own transport's frame; an MBAP header is written out, its length field
below 256. -/
theorem slaveReplies : Obligations.SlaveReplies := by
  intro s t hs run ok
  obtain ⟨sound, -⟩ := s.wf_iff.1 hs
  have rtu : exec .slaveRtu s = .next t → Replied (fun m => rtuFrame (crcSerial m) m) t := by
    rintro ⟨⟩
    exact runSlaveRtu_replied sound run ok
  have ascii : exec .slaveAscii s = .next t → Replied asciiFrame t := by
    rintro ⟨⟩
    exact runSlaveAscii_replied run ok
  have mbap : exec .slaveMbap s = .next t → Replied (mbapFrame (field s.rx.bytes 0)) t := by
    rintro ⟨⟩
    exact runSlaveMbap_replied run ok
  refine ⟨?_, fun h => (rtu h).2, fun h => (ascii h).2, fun h => ?_⟩
  · rintro (h | h | h)
    · exact (rtu h).1
    · exact (ascii h).1
    · exact (mbap h).1
  · obtain ⟨⟨low, high⟩, tx⟩ := mbap h
    have short : t.pdu.bytes.length / 256 = 0 ∧ t.pdu.bytes.length % 256 = t.pdu.bytes.length := by omega
    rw [tx, mbapFrame_eq _ (List.ne_nil_of_length_pos (by omega)), hi8_u16be, lo8_u16be, short.1, short.2]
    rfl

end Sys2Proof.Machine
end

section
/-! PROOFS. The frame decoders (43_frame_decode.md R186 to R191). The checks of a decoder, in its order, are the spec's
checks on numbers: division steps lose nothing, so the residue of a frame is 0 only for its own CRC; the text from the
last ':' is the frame dropped to that place; the fields of a header are its bytes. -/

namespace Sys2Proof.Machine

/-! `DEC_RTU` (43_frame_decode.md R186). -/

/-- A word is the number its two bytes make, low byte first (00_scope.md R9). -/
theorem eq_u16le_iff (w : Word) (a b : Byte) : w = u16le a b ↔ w.toNat = a.toNat + 256 * b.toNat := by
  have number : (u16le a b).toNat = b.toNat * 256 + a.toNat := u16be_toNat b a
  rw [← BitVec.toNat_inj, number]; omega

/-- A division step that leaves 0 had 0: the polynomial has bit 15, which a shifted word has not. -/
theorem eq_zero_of_crcShift_eq_zero {v : Word} (h : crcShift v = 0) : v = 0 := by
  have half : (v >>> 1).toNat = v.toNat / 2 := by rw [BitVec.toNat_ushiftRight, Nat.shiftRight_eq_div_pow]
  rw [crcShift] at h
  split at h
  · have polynomial : v.toNat / 2 = 0xA001 := by rw [← half, BitVec.xor_eq_zero_iff.1 h]; rfl
    omega
  · next even =>
    have quotient : v.toNat / 2 = 0 := by rw [← half, h]; rfl
    have rest : v.toNat % 2 ≠ 1 := by simpa [BitVec.getLsbD, Nat.testBit_zero] using even
    exact BitVec.eq_of_toNat_eq (show v.toNat = 0 by omega)

theorem eq_zero_of_crcShifts_eq_zero {n : Nat} {v : Word} (h : crcShifts n v = 0) : v = 0 := by
  induction n generalizing v with
  | zero => exact h
  | succ n ih => exact eq_zero_of_crcShift_eq_zero (ih h)

/-- Accumulators that one byte makes equal were equal. -/
theorem serialByte_left_injective (b : Byte) : Function.Injective fun acc => serialByte acc b := by
  intro v w h
  have steps : crcShifts 8 ((v ^^^ b.setWidth 16) ^^^ (w ^^^ b.setWidth 16)) = 0 := by
    rw [crcShifts_xor]
    exact BitVec.xor_eq_zero_iff.2 h
  exact (BitVec.xor_left_inj _).1 (BitVec.xor_eq_zero_iff.1 (eq_zero_of_crcShifts_eq_zero steps))

/-- Two bytes cancel an accumulator exactly when they are its own, low byte first. -/
theorem serialByte_serialByte_eq_zero_iff (c : Word) (a b : Byte) :
    serialByte (serialByte c a) b = 0 ↔ c = u16le a b := by
  have own : serialByte (serialByte (u16le a b) a) b = 0 := by
    have bytes := serialByte_lo8_hi8 (u16be b a)
    rwa [lo8_u16be, hi8_u16be] at bytes
  rw [← own, (serialByte_left_injective b).eq_iff, (serialByte_left_injective a).eq_iff]

/-- A list of at least two bytes is its front and its last two bytes. -/
theorem take_append_last_two {f : List Byte} (h : 2 ≤ f.length) :
    f.take (f.length - 2) ++ [f.getD (f.length - 2) 0, f.getD (f.length - 1) 0] = f := by
  have rest : f.drop (f.length - 2) = [f.getD (f.length - 2) 0, f.getD (f.length - 1) 0] := by
    have next : f.length - 2 + 1 = f.length - 1 := by omega
    have last : f.length - 1 + 1 = f.length := by omega
    rw [List.drop_eq_getElem_cons (by omega), next, List.drop_eq_getElem_cons (by omega), last, List.drop_length,
      List.getD_eq_getElem _ _ (by omega), List.getD_eq_getElem _ _ (by omega)]
  rw [← rest, List.take_append_drop]

theorem crcSerial_append_pair (m : List Byte) (a b : Byte) :
    crcSerial (m ++ [a, b]) = serialByte (serialByte (crcSerial m) a) b := List.foldl_append

/-- The CRC of the front is in the last two bytes exactly when the whole frame has CRC 0 (40_checksum.md R136). -/
theorem crcSerial_eq_zero_iff {f : List Byte} (h : 2 ≤ f.length) :
    crcSerial f = 0 ↔
      crcSerial (f.take (f.length - 2)) = u16le (f.getD (f.length - 2) 0) (f.getD (f.length - 1) 0) := by
  rw [← serialByte_serialByte_eq_zero_iff, ← crcSerial_append_pair, take_append_last_two h]

/-- Settles O19: in a sound state the CRC is the bit-serial one, and the two bytes compared are a number. -/
theorem decRtuCommand : Obligations.DecRtuCommand := by
  intro s hs
  obtain ⟨sound, -⟩ := s.wf_iff.1 hs
  have run : exec .decRtu s = .next (runDecRtu s) := rfl
  refine ⟨?_, fun four => ?_⟩
  · simp only [run, runDecRtu, decRtuFrame, sound.ensureCrc_eq, State.crcOf_built, ne_eq, eq_u16le_iff]
    rfl
  · rw [crcSerial_eq_zero_iff (by omega), eq_u16le_iff]

/-! `DEC_ASCII` (43_frame_decode.md R188). -/

/-- The text from the last ':' is the text without what stands before that place (43_frame_decode.md R189). -/
theorem fromLastColon_eq_drop {t : List Byte} {p : Nat} (colon : t[p]? = some 0x3A#8)
    (last : ∀ j, p < j → t[j]? ≠ some 0x3A#8) : fromLastColon t = some (t.drop p) := by
  induction t generalizing p with
  | nil => cases colon
  | cons c t ih =>
    cases p with
    | zero =>
      have none_behind : 0x3A#8 ∉ t := fun h => by
        obtain ⟨j, hj⟩ := List.mem_iff_getElem?.1 h
        exact last (j + 1) j.succ_pos hj
      have first : c = 0x3A#8 := Option.some.inj colon
      rw [fromLastColon, fromLastColon_eq_none none_behind]
      exact if_pos first
    | succ p =>
      rw [fromLastColon, ih colon fun j hj => last (j + 1) (Nat.succ_lt_succ hj)]
      rfl

/-- The frame `DEC_ASCII` judges starts at the last ':', or is all of `RXBUF` (43_frame_decode.md R188). -/
theorem startsAt.fromLastColon_getD {t : List Byte} {p : Nat} (h : startsAt t p) :
    (fromLastColon t).getD t = t.drop p := by
  obtain ⟨colon, last⟩ | ⟨rfl, absent⟩ := h
  · rw [fromLastColon_eq_drop colon last, Option.getD_some]
  · have colon_notMem : 0x3A#8 ∉ t := fun h => by
      obtain ⟨j, hj⟩ := List.mem_iff_getElem?.1 h
      exact absent j hj
    rw [fromLastColon_eq_none colon_notMem, Option.getD_none, List.drop_zero]

/-- A byte is the LRC of a message exactly when it makes the sum a multiple of 256 (40_checksum.md R140). -/
theorem lrc_eq_iff (b : List Byte) (x : Byte) : lrc b = x ↔ ((b.map BitVec.toNat).sum + x.toNat) % 256 = 0 := by
  rw [← BitVec.toNat_inj, lrc_toNat]; omega

/-- The bytes of the payload: a pair of characters each, without the ':' and the CR LF (43_frame_decode.md R188). -/
theorem length_hexdec_payload (f : List Byte) :
    (hexdec ((f.drop 1).take (f.length - 3))).length = (f.length - 3) / 2 := by
  rw [length_hexdec, List.length_take, List.length_drop, Nat.min_eq_left (by omega)]

theorem headD_eq_getD_zero (f : List Byte) : f.headD 0 = f.getD 0 0 := by
  cases f <;> rfl

theorem getLastD_eq_getD (b : List Byte) : b.getLastD 0 = b.getD (b.length - 1) 0 := by
  rw [List.getLastD_eq_getLast?, List.getLast?_eq_getElem?, List.getD_eq_getElem?_getD]

/-- Settles O20: the frame is the one that starts at the last ':', and the LRC is compared by the sum of the bytes. -/
theorem decAsciiCommand : Obligations.DecAsciiCommand := by
  intro s p starts
  have run : exec .decAscii s = .next (runDecAscii s) := rfl
  simp only [run, runDecAscii, starts.fromLastColon_getD, decAsciiFrame, headD_eq_getD_zero,
    getLastD_eq_getD, List.dropLast_eq_take, length_hexdec_payload, ne_eq, lrc_eq_iff]
  rfl

/-! `DEC_MBAP` (43_frame_decode.md R191). -/

theorem u16be_eq_zero_iff (a b : Byte) : u16be a b = 0 ↔ a = 0 ∧ b = 0 := by
  have zero : (0 : Word) = u16be 0 0 := by decide
  rw [zero, ← BitVec.toNat_inj, u16be_toNat, u16be_toNat, ← BitVec.toNat_inj, ← BitVec.toNat_inj]; omega

/-- Settles O21: the fields of the header as numbers; the protocol id kept on acceptance is the 0 that was checked. -/
theorem decMbapCommand : Obligations.DecMbapCommand := by
  intro s
  have run : exec .decMbap s = .next (runDecMbap s) := rfl
  rw [run, runDecMbap, decMbapFrame]
  refine congrArg Host.Outcome.next (ite_congr rfl (fun _ => rfl) fun _ => ite_congr rfl (fun _ => rfl) fun _ =>
    ite_congr (congrArg Not (propext (u16be_eq_zero_iff _ _))) (fun _ => rfl) fun protocol =>
    ite_congr (by rw [u16be_toNat]) (fun _ => rfl) fun _ => ?_)
  have proto : field s.rx.bytes 2 = 0 := (u16be_eq_zero_iff _ _).2 (not_not.1 protocol)
  rw [proto, ← u16be_eq_ofNat]
  rfl

end Sys2Proof.Machine
end

section
/-! PROOFS. Element access (44_bank.md R214 to R219): each of its outcomes, in terms of reads, by the host and by
command; the construction of datastores (R210, R211). -/

namespace Sys2Proof.Machine

/-! The outcomes of one element access that fails. -/

section
variable {s : State} {u : Byte} {b : BankName} {a : Nat}

theorem bankRead_absent (h : s.store u = none) : bankRead s u b a = .error .noSuchUnit := by
  simp only [bankRead, h]

theorem bankWrite_absent (h : s.store u = none) (v : Word) : bankWrite s u b a v = .error .noSuchUnit := by
  simp only [bankWrite, h]

variable {d : Store} (h : s.store u = some d) (ha : ¬ a < d.len b)
include h ha

theorem bankRead_out_of_range : bankRead s u b a = .error .outOfRange := by
  simp only [bankRead, h, if_neg ha]

theorem bankWrite_out_of_range (v : Word) : bankWrite s u b a v = .error .outOfRange := by
  simp only [bankWrite, h, if_neg ha]

end

/-- A bit bank keeps bit 0 of a value, a word bank all of it (44_bank.md R215, R217). -/
theorem narrow_eq (b : BankName) (v : Word) :
    narrow b v = match b with | .di | .co => if v.getLsbD 0 then 1 else 0 | .ir | .hr => v := by
  have bit : (v.setWidth 1).setWidth 16 = if v.getLsbD 0 then 1#16 else 0#16 := by
    rw [BitVec.setWidth_one]
    cases v.getLsbD 0 <;> rfl
  cases b with
  | di | co => exact bit
  | ir | hr => rfl

/-- An element holds what was last written to it, or its `BANK_INIT` value (44_bank.md R219 (a)). -/
theorem Store.elem_eq (d : Store) (u : Byte) (b : BankName) (a : Nat) :
    d.elem u b a = match d.written b a with | some x => x | none => initElem u b a := by
  rw [Store.elem]
  cases d.written b a <;> rfl

/-- An element write moves the datastores alone. -/
theorem bankWrite_frame {s t : State} {u : Byte} {b : BankName} {a : Nat} {v : Word}
    (h : bankWrite s u b a v = .ok t) : t = s.setStores t.stores := by
  obtain ⟨d, -, -, rfl⟩ := bankWrite_ok h
  rfl

/-- Settles O24: an access below the length succeeds and is one element's (`Stored.one`); any other fails. -/
theorem bankLaws : Obligations.BankLaws := by
  intro s u d hd b a v
  split
  · next ha =>
    have write := bankWrite_eq_ok hd v ha
    have stored := Stored.one write
    rw [narrow_eq] at stored
    exact ⟨(bankRead_eq_ok hd ha).trans (congrArg Except.ok (Store.elem_eq d u b a)), _, write, rfl, stored⟩
  · next ha => exact ⟨bankRead_out_of_range hd ha, bankWrite_out_of_range hd ha v⟩

/-! The host port (44_bank.md R218): what one access does, by its outcome. -/

section
variable {s : State} {u : Byte} {b : BankName} {a : Nat} {e : BankErr} {v : Word}

theorem hostDo_read_ok (h : bankRead s u b a = .ok v) :
    hostDo (.read u b a) s = { s with hostOut := s.hostOut ++ [.value v] } := by
  simp only [hostDo, h]

theorem hostDo_read_error (h : bankRead s u b a = .error e) :
    hostDo (.read u b a) s = { s with hostOut := s.hostOut ++ [.failed e] } := by
  simp only [hostDo, h]

theorem hostDo_write_ok {t : State} (h : bankWrite s u b a v = .ok t) :
    hostDo (.write u b a v) s = { s with hostOut := s.hostOut ++ [.written], stores := t.stores } := by
  simp only [hostDo, h]
  rw [bankWrite_frame h]
  rfl

theorem hostDo_write_error (h : bankWrite s u b a v = .error e) :
    hostDo (.write u b a v) s = { s with hostOut := s.hostOut ++ [.failed e] } := by
  simp only [hostDo, h]

end

/-- A step whose input is a host access makes that access (44_bank.md R218). -/
theorem step_of_host {s : State} {acc : HostAccess} {rest : List Input} (h : s.inputs = .host acc :: rest) :
    step s = .next (hostDo acc { s with inputs := rest }) :=
  step_of_input h rfl (by simp)

/-- Settles O25: the step makes the one access (`step_of_host`), which ends by its outcome. -/
theorem hostPort : Obligations.HostPort := by
  intro s rest u b a
  have consumed : State.store { s with inputs := rest } u = s.store u := rfl
  refine ⟨fun hin => ?_, fun v hin => ?_⟩ <;> rw [step_of_host hin]
  · cases hd : s.store u with
    | none => exact congrArg Host.Outcome.next (hostDo_read_error (bankRead_absent (consumed.trans hd)))
    | some d =>
      by_cases ha : a < d.len b
      · simp only [if_pos ha, hostDo_read_ok (bankRead_eq_ok (consumed.trans hd) ha)]
      · simp only [if_neg ha, hostDo_read_error (bankRead_out_of_range (consumed.trans hd) ha)]
  · cases hd : s.store u with
    | none => exact congrArg Host.Outcome.next (hostDo_write_error (bankWrite_absent (consumed.trans hd) v))
    | some d =>
      by_cases ha : a < d.len b
      · have write := bankWrite_eq_ok (consumed.trans hd) v ha
        have stored := Stored.one write
        rw [narrow_eq] at stored
        simp only [if_pos ha]
        exact ⟨_, congrArg Host.Outcome.next (hostDo_write_ok write), rfl, stored⟩
      · simp only [if_neg ha]
        exact congrArg Host.Outcome.next (hostDo_write_error (bankWrite_out_of_range (consumed.trans hd) ha v))

/-! Element access by command (44_bank.md R216, R217), after the host's turn. -/

/-- The four selectors of `BANK` (10_state.md R21). -/
theorem bankOfSel_eq {sel : BitVec 2} {b : BankName}
    (h : (sel.toNat, b) ∈ [(0, .di), (1, .co), (2, .ir), (3, BankName.hr)]) : bankOfSel sel = b := by
  simp only [List.mem_cons, Prod.mk.injEq, List.not_mem_nil, or_false] at h
  rcases h with ⟨hs, rfl⟩ | ⟨hs, rfl⟩ | ⟨hs, rfl⟩ | ⟨hs, rfl⟩ <;> simp only [bankOfSel, hs]

/-- Host accesses move no operand of a command. -/
theorem hostTurn_operands (s : State) :
    s.hostTurn.unit = s.unit ∧ s.hostTurn.addr = s.addr ∧ s.hostTurn.val = s.val := by
  rw [(hostTurn_step s).1.frame]
  exact ⟨rfl, rfl, rfl⟩

section
variable {s : State} {e : BankErr} {v : Word}

theorem runBankRd_ok
    (access : bankRead s.hostTurn s.hostTurn.unit (bankOfSel s.bank) s.hostTurn.addr.toNat = .ok v) :
    runBankRd s = (s.hostTurn.setRes v).setStatus .ok := by
  obtain ⟨hu, ha, -⟩ := hostTurn_operands s
  rw [hu, ha] at access
  simp only [runBankRd, seqRead, access]

theorem runBankRd_error
    (access : bankRead s.hostTurn s.hostTurn.unit (bankOfSel s.bank) s.hostTurn.addr.toNat = .error e) :
    runBankRd s = s.hostTurn.setStatus e.status := by
  obtain ⟨hu, ha, -⟩ := hostTurn_operands s
  rw [hu, ha] at access
  simp only [runBankRd, seqRead, access, State.raiseLocal_eq]

theorem runBankWr_ok {t : State}
    (access : bankWrite s.hostTurn s.hostTurn.unit (bankOfSel s.bank) s.hostTurn.addr.toNat s.hostTurn.val = .ok t) :
    runBankWr s = t.setStatus .ok := by
  obtain ⟨hu, ha, hv⟩ := hostTurn_operands s
  rw [hu, ha, hv] at access
  simp only [runBankWr, seqWrite, access]

theorem runBankWr_error
    (access : bankWrite s.hostTurn s.hostTurn.unit (bankOfSel s.bank) s.hostTurn.addr.toNat s.hostTurn.val =
      .error e) :
    runBankWr s = s.hostTurn.setStatus e.status := by
  obtain ⟨hu, ha, hv⟩ := hostTurn_operands s
  rw [hu, ha, hv] at access
  simp only [runBankWr, seqWrite, access, State.raiseLocal_eq]

end

/-- Settles O23: both commands make their access in the state the host's turn leaves, and end by its outcome. -/
theorem bankCommands : Obligations.BankCommands := by
  intro s b hb
  obtain rfl := bankOfSel_eq hb
  have rd : exec .bankRd s = .next (runBankRd s) := rfl
  have wr : exec .bankWr s = .next (runBankWr s) := rfl
  rw [rd, wr]
  refine ⟨fun hd => ?_, fun d hd => ?_⟩
  · rw [runBankRd_error (bankRead_absent hd), runBankWr_error (bankWrite_absent hd _)]
    exact ⟨rfl, rfl⟩
  split
  · next ha =>
    have write := bankWrite_eq_ok hd s.hostTurn.val ha
    have stored := Stored.one write
    rw [narrow_eq] at stored
    rw [runBankRd_ok (bankRead_eq_ok hd ha), runBankWr_ok write]
    exact ⟨rfl, _, rfl, rfl, stored⟩
  · next ha =>
    rw [runBankRd_error (bankRead_out_of_range hd ha), runBankWr_error (bankWrite_out_of_range hd ha _)]
    exact ⟨rfl, rfl⟩

/-! Construction (44_bank.md R210, R211). -/

theorem newStore_elem (l0 l1 l2 l3 : Nat) (u : Byte) (b : BankName) (a : Nat) :
    (newStore l0 l1 l2 l3).elem u b a = initElem u b a := by
  cases b <;> rfl

/-- The state with a new datastore for the unit in `UNIT`. -/
def State.construct (s : State) (l0 l1 l2 l3 : Nat) : State :=
  (s.setStores (assocPut s.stores s.unit.toNat (newStore l0 l1 l2 l3))).setStatus .ok

theorem construct_store_self (s : State) (l0 l1 l2 l3 : Nat) :
    (s.construct l0 l1 l2 l3).store s.unit = some (newStore l0 l1 l2 l3) :=
  assocGet_put_self _ _ _

theorem construct_store_ne (s : State) (l0 l1 l2 l3 : Nat) {u : Byte} (h : u ≠ s.unit) :
    (s.construct l0 l1 l2 l3).store u = s.store u :=
  assocGet_put_ne _ _ fun e => h (BitVec.eq_of_toNat_eq e)

theorem shape_ne_none_iff (s : State) (u : Byte) : s.shape u ≠ none ↔ (s.store u).isSome = true := by
  rw [State.shape, ne_eq, Option.map_eq_none_iff, ← ne_eq, Option.ne_none_iff_isSome]

/-- The checks of a construction in their order (44_bank.md R210). -/
theorem makeStore_eq (l0 l1 l2 l3 : Nat) (s : State) :
    makeStore l0 l1 l2 l3 s =
      if 247 < s.unit.toNat then s.setStatus .unitIdRange
      else if 65536 < l0 ∨ 65536 < l1 ∨ 65536 < l2 ∨ 65536 < l3 then s.setStatus .sizeRange
      else if s.shape s.unit ≠ none then s.setStatus .duplicateUnit
      else s.construct l0 l1 l2 l3 := by
  simp only [makeStore, State.raiseLocal_eq, gt_iff_lt, shape_ne_none_iff]
  rfl

/-- Settles O22: the checks are those of the shared construction (`makeStore_eq`); in what it makes no element was
written yet. -/
theorem dsNewCommands : Obligations.DsNewCommands := by
  intro s i l0 l1 l2 l3 hi
  have run : exec i s = .next (makeStore l0 l1 l2 l3 s) := by
    rcases hi with ⟨rfl, rfl, rfl, rfl, rfl⟩ | ⟨rfl, rfl, rfl, rfl, rfl⟩ <;> rfl
  have new := construct_store_self s l0 l1 l2 l3
  rw [run, makeStore_eq]
  split
  · rfl
  split
  · rfl
  split
  · rfl
  refine ⟨s.construct l0 l1 l2 l3, rfl, rfl, ?_, fun b a ha => ?_, fun v hv => construct_store_ne s _ _ _ _ hv⟩
  · rw [State.shape, new]; rfl
  · have below : a < (newStore l0 l1 l2 l3).len b := by cases b <;> exact ha
    rw [bankRead_eq_ok new below, newStore_elem]

end Sys2Proof.Machine
end

section
/-! PROOFS. What instructions and steps leave of the datastores: the elements an instruction does not store to
(44_bank.md R219, 45_request_exec.md R232), and which datastores exist with which lengths (44_bank.md R212). -/

namespace Sys2Proof.Machine

/-! Every instruction but the constructors. -/

/-- A frame of elements in which the same datastores exist with the same lengths (10_state.md R32). -/
structure BankMove (w : Byte → BankName → Nat → Bool) (s t : State) : Prop extends BankFrame w s t where
  shape : ∀ u, t.shape u = s.shape u

theorem BankMove.trans {w : Byte → BankName → Nat → Bool} {s t r : State} (h : BankMove w s t) (k : BankMove w t r) :
    BankMove w s r :=
  ⟨h.toBankFrame.trans k.toBankFrame, fun u => (k.shape u).trans (h.shape u)⟩

theorem SeqStep.bankMove {w : Byte → BankName → Nat → Bool} {s t : State} (h : SeqStep w s t) : BankMove w s t :=
  ⟨h.bankFrame, h.1.shape⟩

theorem shape_of_stores {s t : State} (h : t.stores = s.stores) (u : Byte) : t.shape u = s.shape u := by
  simp only [State.shape, State.store, h]

theorem BankMove.of_same (w : Byte → BankName → Nat → Bool) {s t : State} (hs : t.stores = s.stores)
    (hq : t.hostQ = s.hostQ) : BankMove w s t :=
  ⟨.of_same w hs hq, shape_of_stores hs⟩

theorem Keeps.bankMove {i : Instr} (hi : accessesStores i = false) (w : Byte → BankName → Nat → Bool) {s t : State}
    (h : Keeps i s t) : BankMove w s t := by
  refine ⟨h.bankFrame hi w, shape_of_stores ?_⟩
  cases i <;> simp only [accessesStores, reduceCtorEq] at hi <;> (have h : t = _ := h; rw [h])

/-- A request stores to the elements of its row (45_request_exec.md R232). -/
theorem runRequest_bankMove {i : Instr} (hi : i.layer = .wire) (s : State) :
    BankMove (requestMarks i s.reqUnit) s (runRequest i s) := by
  refine ⟨runRequest_bankFrame hi s, ?_⟩
  rcases runRequest_cases hi s with h | ⟨t, r, hk, -, h⟩ <;> rw [h]
  · exact shape_of_stores rfl
  · exact hk.1.shape

/-- `EXEC` stores what the request in `PDUBUF` stores (45_request_exec.md R230). -/
theorem runExec_bankMove (s : State) : BankMove (execStores s) s (runExec s) := by
  rcases runExec_cases s with ⟨e, h⟩ | ⟨i, hd, h⟩ <;> rw [h]
  · exact .of_same _ rfl rfl
  · have marks : execStores s = requestMarks i s.reqUnit := by
      funext u b a
      simp only [execStores, hd, requestMarks]
    rw [marks]
    exact runRequest_bankMove (layer_of_decodePdu hd) s

/-- A slave cycle stores what the request its decoder leaves in `PDUBUF` stores (45_request_exec.md R254). -/
theorem slaveCycle_bankMove {i j : Instr} (hi : accessesStores i = false) (hj : accessesStores j = false)
    {dec enc : State → State} (hdec : ∀ s, Keeps i s (dec s)) (henc : ∀ s, Keeps j s (enc s)) (s : State) :
    BankMove (execStores (dec (s.setSphase .decoding))) s (slaveCycle dec enc s) := by
  have starts : BankMove (execStores (dec (s.setSphase .decoding))) s (s.setSphase .decoding) := .of_same _ rfl rfl
  have decodes := starts.trans ((hdec _).bankMove hi _)
  have executes := decodes.trans (runExec_bankMove _)
  simp only [slaveCycle]
  split
  · exact .of_same _ rfl rfl
  split
  · exact decodes.trans (.of_same _ rfl rfl)
  split
  · exact executes.trans (.of_same _ rfl rfl)
  · have replies := executes.trans (.of_same _ (t := State.setSphase _ .replying) rfl rfl)
    exact (replies.trans ((henc _).bankMove hj _)).trans (.of_same _ rfl rfl)

theorem runBankRd_bankMove (w : Byte → BankName → Nat → Bool) (s : State) : BankMove w s (runBankRd s) := by
  obtain ⟨v, e, h⟩ := runBankRd_eq s
  rw [h]
  exact (SeqStep.turn w s).bankMove.trans (.of_same w rfl rfl)

/-- `BANK_WR` stores to the element it addresses (44_bank.md R217). -/
theorem runBankWr_bankMove (s : State) : BankMove (storesTo .bankWr s) s (runBankWr s) := by
  obtain ⟨e, h⟩ := runBankWr_eq s
  have addressed : storesTo .bankWr s s.unit (bankOfSel s.bank) s.addr.toNat = true := by simp [storesTo]
  rw [h]
  exact (seqWrite_step s.val addressed s).bankMove.trans (.of_same _ rfl rfl)

theorem storesTo_wire {i : Instr} (hi : i.layer = .wire) (s : State) : storesTo i s = requestMarks i s.reqUnit := by
  cases i <;> simp only [Instr.layer, reduceCtorEq] at hi <;> rfl

/-- An instruction that is no constructor leaves the elements it does not store to, and every length. -/
theorem exec_bankMove {i : Instr} {s t : State} (h : exec i s = .next t) (hn : i ≠ .dsNew) (hd : i ≠ .dsNewDefault) :
    BankMove (storesTo i s) s t := by
  cases ha : accessesStores i with
  | false => exact (registerFrame i s t h).bankMove ha _
  | true =>
    cases hi : i.layer with
    | wire =>
      obtain rfl := eq_runRequest_of_exec hi h
      rw [storesTo_wire hi]
      exact runRequest_bankMove hi s
    | command =>
      cases i <;> simp only [accessesStores, Instr.layer, reduceCtorEq] at ha hi <;> injection h with h <;> subst h
      case dsNew => exact absurd rfl hn
      case dsNewDefault => exact absurd rfl hd
      case bankRd => exact runBankRd_bankMove _ s
      case bankWr => exact runBankWr_bankMove s
      case execReq => exact runExec_bankMove s
      case slaveRtu =>
        exact slaveCycle_bankMove (i := .decRtu) (j := .encRtu) rfl rfl runDecRtu_keeps runEncRtu_keeps s
      case slaveAscii =>
        exact slaveCycle_bankMove (i := .decAscii) (j := .encAscii) rfl rfl (fun t => (runDecAscii_decoded t).keeps)
          runEncAscii_keeps s
      case slaveMbap =>
        exact slaveCycle_bankMove (i := .decMbap) (j := .encMbap) rfl rfl runDecMbap_keeps runEncMbap_keeps s

/-! The constructors (44_bank.md R210, R211). -/

/-- Construction leaves the datastores alone, or the unit was absent and has its datastore now. -/
theorem makeStore_stores (l0 l1 l2 l3 : Nat) (s : State) :
    (∃ e, makeStore l0 l1 l2 l3 s = s.setStatus e) ∨
      (s.shape s.unit = none ∧ makeStore l0 l1 l2 l3 s = s.construct l0 l1 l2 l3) := by
  rw [makeStore_eq]
  split
  · exact .inl ⟨_, rfl⟩
  split
  · exact .inl ⟨_, rfl⟩
  split
  · exact .inl ⟨_, rfl⟩
  · next absent => exact .inr ⟨not_not.1 absent, rfl⟩

theorem makeStore_hostQ (l0 l1 l2 l3 : Nat) (s : State) : (makeStore l0 l1 l2 l3 s).hostQ = s.hostQ := by
  rcases makeStore_stores l0 l1 l2 l3 s with ⟨e, h⟩ | ⟨-, h⟩ <;> rw [h] <;> rfl

theorem makeStore_store_ne (l0 l1 l2 l3 : Nat) (s : State) {u : Byte} (hu : u ≠ s.unit) :
    (makeStore l0 l1 l2 l3 s).store u = s.store u := by
  rcases makeStore_stores l0 l1 l2 l3 s with ⟨e, h⟩ | ⟨-, h⟩ <;> rw [h]
  · rfl
  · exact construct_store_ne s l0 l1 l2 l3 hu

/-- A present datastore stays as it is: its own unit's construction fails. -/
theorem makeStore_store_present (l0 l1 l2 l3 : Nat) (s : State) {u : Byte} (present : s.shape u ≠ none) :
    (makeStore l0 l1 l2 l3 s).store u = s.store u := by
  rcases makeStore_stores l0 l1 l2 l3 s with ⟨e, h⟩ | ⟨absent, h⟩ <;> rw [h]
  · rfl
  · exact construct_store_ne s l0 l1 l2 l3 fun hu => present (hu ▸ absent)

/-- Construction changes what exists for no unit but an absent one in `UNIT`. -/
theorem makeStore_shape (l0 l1 l2 l3 : Nat) (s : State) (u : Byte) :
    (makeStore l0 l1 l2 l3 s).shape u = s.shape u ∨ (s.shape u = none ∧ u = s.unit) := by
  rcases makeStore_stores l0 l1 l2 l3 s with ⟨e, h⟩ | ⟨absent, h⟩ <;> rw [h]
  · exact .inl rfl
  by_cases hu : u = s.unit
  · exact .inr ⟨hu ▸ absent, hu⟩
  · exact .inl (congrArg (Option.map Store.lens) (construct_store_ne s l0 l1 l2 l3 hu))

theorem makeStore_bankFrame (l0 l1 l2 l3 : Nat) (s : State) :
    BankFrame (storesTo .dsNew s) s (makeStore l0 l1 l2 l3 s) := by
  refine ⟨fun u b a e => ?_, fun _ _ _ e => by rw [makeStore_hostQ]; exact e⟩
  have other : u ≠ s.unit := by simpa [storesTo] using (Bool.or_eq_false_iff.1 e).2
  rw [bankRead, bankRead, makeStore_store_ne _ _ _ _ s other]

/-- Both constructors are one operation. -/
theorem exec_constructor {i : Instr} {s t : State} (hi : i = .dsNew ∨ i = .dsNewDefault) (h : exec i s = .next t) :
    ∃ l0 l1 l2 l3, t = makeStore l0 l1 l2 l3 s := by
  rcases hi with rfl | rfl <;> injection h with h <;> exact ⟨_, _, _, _, h.symm⟩

/-- Settles O38: a constructor stores to its unit alone (`makeStore_bankFrame`), any other instruction to the elements
named (`exec_bankMove`); an element that neither the instruction nor the host marks is in the frame. -/
theorem memoryFrame : Obligations.MemoryFrame := by
  intro i s t h u b a stores host
  have unmarked : withHost s (storesTo i s) u b a = false := by rw [withHost, host, stores, Bool.or_false]
  by_cases hi : i = .dsNew ∨ i = .dsNewDefault
  · have unit : storesTo i s = storesTo .dsNew s := by rcases hi with rfl | rfl <;> rfl
    obtain ⟨l0, l1, l2, l3, rfl⟩ := exec_constructor hi h
    rw [unit] at unmarked
    exact (makeStore_bankFrame l0 l1 l2 l3 s).other u b a unmarked
  · rw [not_or] at hi
    exact (exec_bankMove h hi.1 hi.2).other u b a unmarked

/-! The lifetime of datastores (44_bank.md R212). -/

/-- An input that is no reset makes, resizes and deletes no datastore (44_bank.md R218). -/
theorem applyInput_shape {i : Input} (hi : i ≠ .reset) (s : State) (u : Byte) :
    (applyInput i s).shape u = s.shape u := by
  cases i with
  | reset => exact absurd rfl hi
  | host a => exact (hostDo_step a s).shape u
  | portWrite r v =>
    cases r with
    | rxLen | pduLen | dataLen => simp only [applyInput, writePort]; split <;> rfl
    | _ => rfl
  | bufWrite b j v => cases b <;> rfl
  | _ => rfl

/-- The codes of the constructors (30_encoding.md R120). -/
theorem decodeCmd_constructor_iff (code : Byte) :
    decodeCmd code = .dsNew ∨ decodeCmd code = .dsNewDefault ↔ code = 0x10 ∨ code = 0x11 := by
  constructor
  · rintro (h | h) <;> unfold decodeCmd at h <;> split at h <;> cases h
    · next number => exact .inl (BitVec.eq_of_toNat_eq number)
    · next number => exact .inr (BitVec.eq_of_toNat_eq number)
  · rintro (rfl | rfl)
    · exact .inl rfl
    · exact .inr rfl

/-- In a step but reset what exists for a unit stays, or a constructor finds the unit in `UNIT` absent. -/
theorem step_shape {s t : State} (h : step s = .next t) (hreset : ∀ rest, s.inputs ≠ .reset :: rest) (u : Byte) :
    t.shape u = s.shape u ∨
      (s.shape u = none ∧ u = s.unit ∧ ∃ i rest code during, s.inputs = i :: rest ∧
        commandOf i = some (code, during) ∧ (code = 0x10 ∨ code = 0x11)) := by
  rcases step_cases h with ⟨-, rfl⟩ | ⟨i, rest, hin, -, rfl⟩ | ⟨i, rest, code, during, r, hin, hc, hr, rfl⟩
  · exact .inl rfl
  · have noReset : i ≠ .reset := by rintro rfl; exact hreset rest hin
    exact .inl (applyInput_shape noReset { s with inputs := rest } u)
  have flush : r.hostFlush.shape u = r.shape u := (hostFlush_step r).1.shape u
  by_cases hcode : code = 0x10 ∨ code = 0x11
  · obtain ⟨l0, l1, l2, l3, rfl⟩ := exec_constructor ((decodeCmd_constructor_iff code).2 hcode) hr
    rcases makeStore_shape l0 l1 l2 l3 (s.started code during rest) u with same | ⟨absent, unit⟩
    · exact .inl (flush.trans same)
    · exact .inr ⟨absent, unit, i, rest, code, during, hin, hc, hcode⟩
  · have other := mt (decodeCmd_constructor_iff code).1 hcode
    rw [not_or] at other
    exact .inl (flush.trans ((exec_bankMove hr other.1 other.2).shape u))

/-- A step that runs a constructor with no host access inside is the construction. -/
theorem step_constructor {s t : State} (h : step s = .next t) {i : Input} {rest : List Input} {code : Byte}
    (hin : s.inputs = i :: rest) (hc : commandOf i = some (code, [])) (hcode : code = 0x10 ∨ code = 0x11) :
    ∃ l0 l1 l2 l3, t = makeStore l0 l1 l2 l3 (s.started code [] rest) := by
  rcases step_cases h with ⟨hin', -⟩ | ⟨i', rest', hin', hc', -⟩ | ⟨i', rest', code', during, r, hin', hc', hr, rfl⟩
  · rw [hin] at hin'; cases hin'
  · rw [hin] at hin'; cases hin'
    rw [hc] at hc'; cases hc'
  · rw [hin] at hin'; cases hin'
    rw [hc] at hc'; cases hc'
    obtain ⟨l0, l1, l2, l3, rfl⟩ := exec_constructor ((decodeCmd_constructor_iff code).2 hcode) hr
    exact ⟨l0, l1, l2, l3, hostFlush_quiet (makeStore_hostQ l0 l1 l2 l3 _)⟩

/-- Settles O57: what exists for a unit changes only where a constructor finds it absent (`step_shape`); the constructor
of a present unit fails (`makeStore_store_present`). -/
theorem datastoreLifetime : Obligations.DatastoreLifetime := by
  intro s t hstep hreset u
  refine ⟨fun present => ?_, fun absent appears => ?_, fun present i rest code hin hc hcode => ?_⟩
  · rcases step_shape hstep hreset u with same | ⟨absent, -⟩
    · exact same
    · exact absurd absent present
  · rcases step_shape hstep hreset u with same | ⟨-, made⟩
    · exact absurd (same.trans absent) appears
    · exact made
  · obtain ⟨l0, l1, l2, l3, rfl⟩ := step_constructor hstep hin hc hcode
    exact makeStore_store_present l0 l1 l2 l3 (s.started code [] rest) present

end Sys2Proof.Machine
end

section
/-! PROOFS. `EXEC` and the address filter (45_request_exec.md R230, R231, R235 (a)). A PDU that decodes holds the fixed
part of its function; a request for a present unit ends `OK` with a reply message for that unit. -/

namespace Sys2Proof.Machine

/-! Step 0: a PDU too short for its function (45_request_exec.md R234, R235 (a)). -/

/-- The bytes of the fixed part of a function's request layout (30_encoding.md R101 to R108). -/
def fixedPart (fc : Byte) : Nat :=
  match fc.toNat with
  | 0x01 | 0x02 | 0x03 | 0x04 | 0x05 | 0x06 => 5
  | 0x0F | 0x10 => 6
  | 0x16 => 7
  | 0x17 => 10
  | _ => 1

theorem fixedPart_of_not_isFunction {fc : Byte} (h : isFunction fc = false) : fixedPart fc = 1 := by
  have hfc := (isFunction_eq_false_iff fc).1 h
  unfold fixedPart
  split
  case h_11 => rfl
  all_goals exact absurd (by simp [functionCodes, *]) hfc

/-- The encoding of a request starts with its function code and holds the fixed part. -/
theorem encode_eq_cons {i : Instr} (hi : i.layer = .wire) (hw : i.wf = true) :
    ∃ fc p, encode i = fc :: p ∧ fixedPart fc ≤ p.length + 1 := by
  cases i <;> simp only [Instr.layer, reduceCtorEq] at hi
  case unrecognized fc =>
    exact ⟨fc, [], rfl, Nat.le_of_eq (fixedPart_of_not_isFunction (by simpa [Instr.wf] using hw))⟩
  all_goals exact ⟨_, _, rfl, by simp [fixedPart, be]⟩

/-- A PDU that decodes holds the fixed part of its function. -/
theorem fixedPart_le_of_decodePdu {fc : Byte} {rest : List Byte} {i : Instr} (h : decodePdu (fc :: rest) = .ok i) :
    fixedPart fc ≤ rest.length + 1 := by
  obtain ⟨c, p, he, hp⟩ := encode_eq_cons (layer_of_decodePdu h) (wf_of_decodePdu h)
  obtain ⟨ignored, hr⟩ := eq_encode_append_of_decodePdu h
  rw [he, List.cons_append] at hr
  obtain ⟨rfl, rfl⟩ := List.cons.inj hr
  rw [List.length_append]
  omega

/-- `EXEC` discards a message of a present unit whose PDU does not decode (45_request_exec.md R230). -/
theorem runExec_of_decodePdu_error {s : State} {u fc : Byte} {rest : List Byte} {d : Store} {e : DecodeError}
    (hb : s.pdu.bytes = u :: fc :: rest) (hs : s.store u = some d) (hd : decodePdu (fc :: rest) = .error e) :
    runExec s = s.discarded .discardedFraming := by
  simp only [runExec, hb, store_dispatching, hs, hd]
  rfl

/-- A PDU shorter than the fixed part of its function is discarded (45_request_exec.md R235 (a)). -/
theorem shortDiscarded (fc : Byte) : ShortDiscarded fc (fixedPart fc) := by
  intro s u rest d hb short hs
  cases hd : decodePdu (fc :: rest) with
  | error e => exact congrArg Host.Outcome.next (runExec_of_decodePdu_error hb hs hd)
  | ok i => exact absurd (fixedPart_le_of_decodePdu hd) (by omega)

/-! `EXEC` (45_request_exec.md R230). -/

/-- The first byte of a message is the unit id its request runs against. -/
theorem reqUnit_of_bytes {s : State} {u : Byte} {m : List Byte} (h : s.pdu.bytes = u :: m) : s.reqUnit = u := by
  have hd : s.pdu.bytes.headD 0 = u := by rw [h]; rfl
  rw [← hd, ByteBuf.bytes, State.reqUnit]
  cases hc : s.pdu.cells with
  | nil => simp
  | cons c t =>
    cases hl : s.pdu.len.toNat with
    | zero => rw [ByteBuf.bytes, hl] at h; cases h
    | succ n => rfl

/-- A message without a function code is discarded. -/
theorem runExec_of_length_lt_two {s : State} (h : s.pdu.bytes.length < 2) :
    runExec s = s.discarded .discardedFraming := by
  simp only [runExec]
  split
  · next hb => simp [hb] at h
  · rfl

/-- A message for an absent unit is discarded (45_request_exec.md R231). -/
theorem runExec_absent {s : State} {u fc : Byte} {rest : List Byte} (hb : s.pdu.bytes = u :: fc :: rest)
    (hs : s.store u = none) : runExec s = s.discarded .discardedUnit := by
  simp only [runExec, hb, store_dispatching, hs]
  rfl

/-- A request for an absent unit is discarded (45_request_exec.md R231). -/
theorem runRequest_absent {i : Instr} (hi : i.layer = .wire) {s : State} (hs : s.store s.reqUnit = none) :
    runRequest i s = s.discarded .discardedUnit := by
  obtain ⟨f, hf, -⟩ := wire_serve i hi
  exact (hf s).2.trans (serve_absent _ f hs)

/-- A request for a present unit ends `OK` with a reply message for the unit in `PDUBUF` and `SPHASE` `Idle`. -/
theorem runRequest_present {i : Instr} (hi : i.layer = .wire) {s : State} {d : Store}
    (hs : s.store s.reqUnit = some d) :
    ∃ r, (runRequest i s).pdu = s.pdu.write (s.reqUnit :: r) ∧ (runRequest i s).status = .ok ∧
      (runRequest i s).sphase = .idle := by
  obtain ⟨f, hf, hspec⟩ := wire_serve i hi
  obtain ⟨-, accesses⟩ := hspec s.reqUnit d (s.setSphase .dispatching) hs
  rw [(hf s).2, serve_present _ f hs, accesses.frame]
  exact ⟨_, rfl, rfl, rfl⟩

/-- Settles O35: a discard by the checks of `EXEC` in their order; past them `EXEC` runs the decoded request, which
replies (`runRequest_present`). -/
theorem execCommand : Obligations.ExecCommand := by
  refine ⟨fun s short => ?_, fun s i hi absent => ?_, fun s u fc rest hb => ⟨fun absent => ?_, fun d hs => ?_⟩⟩
  · exact congrArg Host.Outcome.next (runExec_of_length_lt_two short)
  · rw [exec_wire hi, runRequest_absent hi absent]
  · exact congrArg Host.Outcome.next (runExec_absent hb absent)
  split
  · next hd => exact congrArg Host.Outcome.next (runExec_of_decodePdu_error hb hs hd)
  · next i hd =>
    have hi := layer_of_decodePdu hd
    obtain rfl := reqUnit_of_bytes hb
    obtain ⟨r, reply⟩ := runRequest_present hi hs
    rw [exec_wire hi]
    exact ⟨congrArg Host.Outcome.next (runExec_of_decodePdu hb hs hd), _, r, rfl, reply⟩

end Sys2Proof.Machine
end

section
/-! PROOFS. The ten functions (45_request_exec.md R240 to R252). A check that fails is an exception reply in the state
the request came to; quiet accesses leave the reply and the datastores. The functions of one kind share a lemma: the
checks in the order of R234, then, with no host access scheduled, exactly their elements read or stored. -/

namespace Sys2Proof.Machine

/-! How a served request ends. -/

section
variable {s : State} {d : Store} {i : Instr} {fc : Byte} {f : Byte → Store → State → State × Answer}
  (run : exec i s = .next (serve fc f s)) (hd : s.store s.reqUnit = some d)
include run hd

/-- An exception leaves its reply and nothing else (60_exceptions.md R306). -/
theorem exec_exception {c : Byte}
    (answer : f s.reqUnit d (s.setSphase .dispatching) = (s.setSphase .dispatching, .error c)) :
    exec i s = .next (s.replied s.reqUnit [fc ||| 0x80, c]) := by
  rw [run, serve_present fc f hd, answer]
  rfl

/-- A check of a function: the exception it raises, or what the function answers past it (45_request_exec.md R234). -/
theorem exec_check {p q rest : Prop} [Decidable p] [Decidable q] {c : Byte} {r : State × Answer}
    (answer : f s.reqUnit d (s.setSphase .dispatching) = if p then (s.setSphase .dispatching, .error c) else r)
    (past : ¬ q → f s.reqUnit d (s.setSphase .dispatching) = r → rest) (same : p ↔ q := by exact Iff.rfl) :
    if q then exec i s = .next (s.replied s.reqUnit [fc ||| 0x80, c]) else rest := by
  split
  · next fails => exact exec_exception run hd (answer.trans (if_pos (same.2 fails)))
  · next passes => exact past passes (answer.trans (if_neg fun fails => passes (same.1 fails)))

/-- A function that moved the datastores alone leaves them and its reply. -/
theorem exec_reply_stores {t : State} {r : List Byte} (answer : f s.reqUnit d (s.setSphase .dispatching) = (t, .ok r))
    (moved : t = (s.setSphase .dispatching).setStores t.stores) :
    exec i s = .next { s.replied s.reqUnit r with stores := t.stores } := by
  rw [run, serve_present fc f hd, answer, ← reply_stores moved]
  rfl

end

/-! Quiet accesses: no host access is scheduled. -/

/-- One element write in range stores its value. -/
theorem seqWrite_quiet {s : State} {u : Byte} {b : BankName} {a : Nat} {d : Store} (hq : s.hostQ = [])
    (hd : s.store u = some d) (v : Word) (ha : a < d.len b) :
    ∃ t, seqWrite u b a v s = (t, .ok ()) ∧ t = s.setStores t.stores ∧ Stored s t u b a [narrow b v] := by
  have write := bankWrite_eq_ok hd v ha
  exact ⟨_, by simp only [seqWrite, hostTurn_quiet hq, write], rfl, Stored.one write⟩

/-- A read in range, then a write to the same element of what `f` makes of the value read. -/
theorem seqRead_seqWrite_quiet {s : State} {u : Byte} {b : BankName} {a : Nat} {d : Store} (hq : s.hostQ = [])
    (hd : s.store u = some d) (ha : a < d.len b) (f : Word → Word) :
    ∃ t cur, seqRead u b a s = (s, .ok cur) ∧ Holds s u b a [cur] ∧ seqWrite u b a (f cur) s = (t, .ok ()) ∧
      t = s.setStores t.stores ∧ Stored s t u b a [narrow b (f cur)] := by
  have read := bankRead_eq_ok hd ha
  obtain ⟨t, write, moved, stored⟩ := seqWrite_quiet hq hd (f (d.elem u b a)) ha
  refine ⟨t, _, ?_, fun k hk => ?_, write, moved, stored⟩
  · rw [seqRead, hostTurn_quiet hq, read]
  · obtain rfl : k = 0 := by simpa using hk
    exact read

/-- A run of writes in range, then a run of reads in range, reads the elements as written. -/
theorem seqWrites_seqReads_quiet {s : State} {u : Byte} {b : BankName} {d : Store} (hq : s.hostQ = [])
    (hd : s.store u = some d) {w r n : Nat} {vs : List Word} (hw : w + vs.length ≤ d.len b) (hr : r + n ≤ d.len b) :
    ∃ t es, seqWrites u b w vs s = (t, .ok ()) ∧ seqReads u b r n t = (t, .ok es) ∧ es.length = n ∧
      Holds t u b r es ∧ t = s.setStores t.stores ∧ Stored s t u b w (vs.map (narrow b)) := by
  obtain ⟨t, write, moved, stored⟩ := seqWrites_quiet u b vs w s d hq hd hw
  have shape : t.shape u = s.shape u := stored.2.2 u
  obtain ⟨e, he, hl⟩ := store_of_shape shape hd
  have quiet : t.hostQ = [] := by rw [moved]; exact hq
  obtain ⟨es, read, hn, holds⟩ := seqReads_quiet u b n r t e quiet he (by rw [hl]; exact hr)
  exact ⟨t, es, write, read, hn, holds, moved, stored⟩

/-! Values on the wire and in a bank. -/

/-- A coil holds a bit as it is written. -/
theorem narrow_co_ite (p : Prop) [Decidable p] : narrow .co (if p then 1 else 0) = if p then 1 else 0 := by
  split <;> rfl

/-- The bits of a bit array as coils (45_request_exec.md R238). -/
theorem map_narrow_unpack (bytes : List Byte) (q : Nat) :
    (unpack bytes q).map (narrow .co) =
      (List.range q).map fun k => if (bytes.getD (k / 8) 0).getLsbD (k % 8) then 1 else 0 := by
  rw [unpack, List.map_map]
  exact List.map_congr_left fun k _ => narrow_co_ite _

/-- The first registers of a word array, each high byte first (30_encoding.md R88). -/
theorem take_unwords : ∀ {bytes : List Byte} {q : Nat}, 2 * q ≤ bytes.length →
    (unwords bytes).take q = (List.range q).map fun k => u16be (bytes.getD (2 * k) 0) (bytes.getD (2 * k + 1) 0)
  | _, 0, _ => rfl
  | a :: b :: t, q + 1, h => by
    have ih := take_unwords (bytes := t) (q := q) (by simp only [List.length_cons] at h; omega)
    rw [unwords, List.take_succ_cons, ih, List.range_succ_eq_map, List.map_cons, List.map_map]
    rfl
  | [], q + 1, h => by simp at h
  | [_], q + 1, h => by simp only [List.length_cons, List.length_nil] at h; omega

/-- A register holds the whole value. -/
theorem map_narrow_hr (vs : List Word) : vs.map (narrow .hr) = vs := List.map_id vs

/-! The shared functions: their checks, then the accesses. -/

section
variable {s : State} {d : Store} {i : Instr} {fc : Byte} {b : BankName}

/-- A reading function (45_request_exec.md R240 to R243). -/
theorem exec_readFunction {qmax : Nat} {count : Nat → Nat} {data : List Word → List Byte} {start qty : Word}
    (run : exec i s = .next (serve fc (readFunction fc b qmax count data start qty) s))
    (hd : s.store s.reqUnit = some d) :
    if d.len b = 0 then exec i s = .next (s.replied s.reqUnit [fc ||| 0x80, 1])
    else if qty.toNat < 1 ∨ qmax < qty.toNat then exec i s = .next (s.replied s.reqUnit [fc ||| 0x80, 3])
    else if d.len b < start.toNat + qty.toNat then exec i s = .next (s.replied s.reqUnit [fc ||| 0x80, 2])
    else s.hostQ = [] →
      ∃ es, es.length = qty.toNat ∧ Holds s s.reqUnit b start.toNat es ∧
        exec i s = .next (s.replied s.reqUnit (fc :: BitVec.ofNat 8 (count qty.toNat) :: data es)) := by
  refine exec_check run hd rfl fun _ answer => exec_check run hd answer fun _ answer =>
    exec_check run hd answer fun range answer hq => ?_
  obtain ⟨es, read, hn, holds⟩ :=
    seqReads_quiet s.reqUnit b qty.toNat start.toNat (s.setSphase .dispatching) d hq hd (by omega)
  simp only [read] at answer
  exact ⟨es, hn, holds, exec_reply_stores (t := s.setSphase .dispatching) run hd answer rfl⟩

/-- A function that writes one element (45_request_exec.md R247, R248). -/
theorem exec_writeOne {valid : Bool} {addr value v : Word} {echo : List Byte} {refused : Prop} [Decidable refused]
    (run : exec i s = .next (serve fc (writeOne b valid addr value echo) s)) (hd : s.store s.reqUnit = some d)
    (check : (!valid) = true ↔ refused) (hv : narrow b value = v) :
    if d.len b = 0 then exec i s = .next (s.replied s.reqUnit [fc ||| 0x80, 1])
    else if refused then exec i s = .next (s.replied s.reqUnit [fc ||| 0x80, 3])
    else if d.len b < addr.toNat + 1 then exec i s = .next (s.replied s.reqUnit [fc ||| 0x80, 2])
    else s.hostQ = [] →
      ∃ t, exec i s = .next t ∧ t = { s.replied s.reqUnit echo with stores := t.stores } ∧
        Stored s t s.reqUnit b addr.toNat [v] := by
  refine exec_check run hd rfl fun _ answer => exec_check run hd answer (same := check) fun _ answer =>
    exec_check run hd answer fun range answer hq => ?_
  obtain ⟨t, write, moved, stored⟩ :=
    seqWrite_quiet (s := s.setSphase .dispatching) hq hd value (Nat.not_lt.1 range)
  rw [hv] at stored
  simp only [write] at answer
  exact ⟨_, exec_reply_stores run hd answer moved, rfl, stored⟩

/-- A function that writes several elements (45_request_exec.md R249, R250). -/
theorem exec_writeMany {qmax : Nat} {need : Nat → Nat} {values : List Byte → Nat → List Word} {start qty : Word}
    {count : Byte} {bytes : List Byte} {vs : List Word}
    (run : exec i s = .next (serve fc (writeMany fc b qmax need values start qty count bytes) s))
    (hd : s.store s.reqUnit = some d) (hlen : (values bytes qty.toNat).length ≤ qty.toNat)
    (hvs : need qty.toNat ≤ bytes.length → (values bytes qty.toNat).map (narrow b) = vs) :
    if d.len b = 0 then exec i s = .next (s.replied s.reqUnit [fc ||| 0x80, 1])
    else if qty.toNat < 1 ∨ qmax < qty.toNat then exec i s = .next (s.replied s.reqUnit [fc ||| 0x80, 3])
    else if count.toNat ≠ need qty.toNat ∨ bytes.length < count.toNat then
      exec i s = .next (s.replied s.reqUnit [fc ||| 0x80, 3])
    else if d.len b < start.toNat + qty.toNat then exec i s = .next (s.replied s.reqUnit [fc ||| 0x80, 2])
    else s.hostQ = [] →
      ∃ t, exec i s = .next t ∧
        t = { s.replied s.reqUnit (fc :: (be start ++ be qty)) with stores := t.stores } ∧
        Stored s t s.reqUnit b start.toNat vs := by
  refine exec_check run hd rfl fun _ answer => exec_check run hd answer fun _ answer =>
    exec_check run hd answer fun data answer => exec_check run hd answer fun range answer hq => ?_
  obtain ⟨t, write, moved, stored⟩ := seqWrites_quiet s.reqUnit b (values bytes qty.toNat) start.toNat
    (s.setSphase .dispatching) d hq hd (by omega)
  rw [hvs (by omega)] at stored
  simp only [write] at answer
  exact ⟨_, exec_reply_stores run hd answer moved, rfl, stored⟩

end

/-! The ten functions. -/

/-- Settles O26: the reading function with `pack`, whose bytes are the packing (`packedAs_pack`). -/
theorem readBits : Obligations.ReadBits := by
  refine ⟨shortDiscarded 0x01, shortDiscarded 0x02, fun s d start qty hd fc b i hi => ?_⟩
  have run : exec i s = .next (serve fc (readFunction fc b 2000 ceil8 pack start qty) s) := by
    rcases hi with ⟨rfl, rfl, rfl⟩ | ⟨rfl, rfl, rfl⟩ <;> rfl
  have reads := exec_readFunction run hd
  split_ifs at reads ⊢
  · exact reads
  · exact reads
  · exact reads
  · intro hq
    obtain ⟨es, hn, holds, reply⟩ := reads hq
    exact ⟨es, pack es, hn, holds, packedAs_pack es, reply⟩

/-- Settles O27: the reading function with `words`. -/
theorem readRegisters : Obligations.ReadRegisters := by
  refine ⟨shortDiscarded 0x03, shortDiscarded 0x04, fun s d start qty hd fc b i hi => ?_⟩
  have run : exec i s = .next (serve fc (readFunction fc b 125 (2 * ·) words start qty) s) := by
    rcases hi with ⟨rfl, rfl, rfl⟩ | ⟨rfl, rfl, rfl⟩ <;> rfl
  exact exec_readFunction run hd

/-- Settles O28: a coil holds the 1 or 0 written to it. -/
theorem writeCoil : Obligations.WriteCoil := by
  refine ⟨shortDiscarded 0x05, fun s d addr value hd => ?_⟩
  have run : exec (.wrCoil addr value) s =
      .next (serve 0x05 (writeOne .co (value = 0x0000#16 || value = 0xFF00#16) addr
        (if value = 0xFF00#16 then 1 else 0) (encode (.wrCoil addr value))) s) := rfl
  exact exec_writeOne run hd (by simp) (narrow_co_ite _)

/-- Settles O29: no value is refused. -/
theorem writeRegister : Obligations.WriteRegister := by
  refine ⟨shortDiscarded 0x06, fun s d addr value hd => ?_⟩
  have run : exec (.wrReg addr value) s =
      .next (serve 0x06 (writeOne .hr true addr value (encode (.wrReg addr value))) s) := rfl
  have writes := exec_writeOne run hd (refused := False) (by simp) (narrow_eq .hr value)
  rwa [if_neg not_false] at writes

/-- Settles O30: the coils hold the unpacked bits (`map_narrow_unpack`). -/
theorem writeCoils : Obligations.WriteCoils := by
  refine ⟨shortDiscarded 0x0F, fun s d start qty c bytes hd => ?_⟩
  have run : exec (.wrCoils start qty c bytes) s =
      .next (serve 0x0F (writeMany 0x0F .co 1968 ceil8 unpack start qty c bytes) s) := rfl
  exact exec_writeMany run hd (Nat.le_of_eq (length_unpack bytes qty.toNat)) fun _ => map_narrow_unpack bytes qty.toNat

/-- Settles O31: enough data bytes hold all the registers (`take_unwords`). -/
theorem writeRegisters : Obligations.WriteRegisters := by
  refine ⟨shortDiscarded 0x10, fun s d start qty c bytes hd => ?_⟩
  have run : exec (.wrRegs start qty c bytes) s =
      .next (serve 0x10 (writeMany 0x10 .hr 123 (2 * ·) (fun b q => (unwords b).take q) start qty c bytes) s) := rfl
  exact exec_writeMany run hd (List.length_take_le _ _) fun enough => (map_narrow_hr _).trans (take_unwords enough)

/-- Settles O32: the two checks, then the quiet read and write of one element (`seqRead_seqWrite_quiet`). -/
theorem maskWriteRequest : Obligations.MaskWrite := by
  refine ⟨shortDiscarded 0x16, fun s d addr am om hd => ?_⟩
  have run : exec (.maskWr addr am om) s =
      .next (serve 0x16 (maskWrite addr am om (encode (.maskWr addr am om))) s) := rfl
  refine exec_check run hd rfl fun _ answer => exec_check run hd answer fun range answer hq => ?_
  obtain ⟨t, cur, read, holds, write, moved, stored⟩ :=
    seqRead_seqWrite_quiet (s := s.setSphase .dispatching) hq hd (Nat.not_lt.1 range) (masked am om)
  simp only [masked] at write
  simp only [read, write] at answer
  exact ⟨_, cur, holds, exec_reply_stores run hd answer moved, rfl, stored⟩

/-- Settles O33: the four checks, then the quiet writes and the reads of the written bank
(`seqWrites_seqReads_quiet`). -/
theorem readWriteRegisters : Obligations.ReadWriteRegisters := by
  refine ⟨shortDiscarded 0x17, fun s d rs rq ws wq c bytes hd => ?_⟩
  have run : exec (.rwRegs rs rq ws wq c bytes) s = .next (serve 0x17 (readWrite rs rq ws wq c bytes) s) := rfl
  refine exec_check run hd rfl fun _ answer => exec_check run hd answer fun _ answer =>
    exec_check run hd answer fun data answer => exec_check run hd answer fun range answer hq => ?_
  have len := List.length_take_le wq.toNat (unwords bytes)
  obtain ⟨t, es, write, read, hn, holds, moved, stored⟩ := seqWrites_seqReads_quiet (s := s.setSphase .dispatching)
    (b := .hr) (w := ws.toNat) (vs := (unwords bytes).take wq.toNat) (r := rs.toNat) (n := rq.toNat) hq hd
    (by omega) (by omega)
  rw [map_narrow_hr, take_unwords (by omega)] at stored
  simp only [write, read] at answer
  exact ⟨_, es, exec_reply_stores run hd answer moved, hn, holds, rfl, stored⟩

end Sys2Proof.Machine
end

section
/-! PROOFS. The slave cycle as its parts (45_request_exec.md R254 to R256). -/

namespace Sys2Proof.Machine

/-- With `RUN` 0 a slave cycle clears `TXLEN` and reports the stop request (45_request_exec.md R254). -/
theorem slaveCycle_stopped (dec enc : State → State) {s : State} (h : s.run = false) :
    slaveCycle dec enc s = { s with tx := { s.tx with len := 0 }, status := .stopRequested } :=
  if_pos h

/-- A discard leaves no reply bytes and `SPHASE` `Idle` (60_exceptions.md R307). -/
theorem noReply_eq (s : State) :
    s.noReply = { s with tx := s.noReply.tx, freeCtr := s.noReply.freeCtr, sphase := .idle } ∧ s.noReply.tx.len = 0 :=
  ⟨rfl, rfl⟩

section
variable {dec enc : State → State} {s : State} (run : s.run = true)
include run

/-- A frame that the decoder discards ends the cycle. -/
theorem slaveCycle_undecoded (h : (dec (s.setSphase .decoding)).status ≠ .ok) :
    slaveCycle dec enc s = (dec (s.setSphase .decoding)).noReply := by
  simp only [slaveCycle, run, Bool.true_eq_false, if_false, if_pos h]

variable (decoded : (dec (s.setSphase .decoding)).status = .ok)
include decoded

/-- A message that `EXEC` discards ends the cycle. -/
theorem slaveCycle_unexecuted (h : (runExec (dec (s.setSphase .decoding))).status ≠ .ok) :
    slaveCycle dec enc s = (runExec (dec (s.setSphase .decoding))).noReply := by
  simp only [slaveCycle, run, Bool.true_eq_false, if_false, decoded, ne_eq, not_true_eq_false, if_pos h]

/-- A request executed is answered by the encoder's frame. -/
theorem slaveCycle_replying (h : (replying dec s).status = .ok) :
    slaveCycle dec enc s = ((enc (replying dec s)).setSphase .idle).setStatus .ok := by
  have executed : (runExec (dec (s.setSphase .decoding))).status = .ok := h
  simp only [slaveCycle, run, Bool.true_eq_false, if_false, decoded, executed, ne_eq, not_true_eq_false]
  rfl

end

/-- Settles O40: each cycle is `slaveCycle` with the decoder and encoder of its transport; it ends where the first part
that does not end `OK` leaves it, or with the encoder's frame. -/
theorem slaveCycleCommands : Obligations.SlaveCycle := by
  intro s cmd dec enc hi
  obtain ⟨fd, fe, cycle, decode, encode⟩ : ∃ fd fe : State → State, exec cmd s = .next (slaveCycle fd fe s) ∧
      (∀ r, exec dec r = .next (fd r)) ∧ ∀ r, exec enc r = .next (fe r) := by
    simp only [List.mem_cons, Prod.mk.injEq, List.not_mem_nil, or_false] at hi
    rcases hi with ⟨rfl, rfl, rfl⟩ | ⟨rfl, rfl, rfl⟩ | ⟨rfl, rfl, rfl⟩
    · exact ⟨runDecRtu, runEncRtu, rfl, fun _ => rfl, fun _ => rfl⟩
    · exact ⟨runDecAscii, runEncAscii, rfl, fun _ => rfl, fun _ => rfl⟩
    · exact ⟨runDecMbap, runEncMbap, rfl, fun _ => rfl, fun _ => rfl⟩
  rw [cycle]
  refine ⟨fun stopped => by rw [slaveCycle_stopped fd fe stopped], fun run => ⟨_, decode _, ?_⟩⟩
  split
  · next undecoded =>
    rw [slaveCycle_undecoded run undecoded]
    exact ⟨_, rfl, noReply_eq _⟩
  next decoded =>
  refine ⟨_, rfl, ?_⟩
  split
  · next unexecuted =>
    rw [slaveCycle_unexecuted run (not_not.1 decoded) unexecuted]
    exact ⟨_, rfl, noReply_eq _⟩
  · next executed =>
    rw [slaveCycle_replying run (not_not.1 decoded) (not_not.1 executed)]
    exact ⟨_, encode _, rfl⟩

end Sys2Proof.Machine
end

section
/-! PROOFS. Building a request (46_master.md R271 to R275, R285 to R287). A request is the first failing check of its
row or the row's instruction; the three framed requests are `REQ` and, where it built a message, the transport's
encoder. -/

namespace Sys2Proof.Machine

/-- Settles O43: the counter wraps as the register does. -/
theorem nextTxidCommand : Obligations.NextTxidCommand := by
  intro s
  have wraps : BitVec.ofNat 16 ((s.txid.toNat + 1) % 65536) = s.txid + 1 := by
    apply BitVec.eq_of_toNat_eq
    simp [BitVec.toNat_add]
  have run : exec .nextTxid s = .next (runNextTxid s) := rfl
  simp only [run, wraps, runNextTxid, State.setStatus, State.setRes, State.setMtid, State.setTxid]

/-! The quantity checks (46_master.md R273). -/

/-- A row's instruction, or the error of the first of its quantity checks that fails. -/
def afterChecks (checks : List (Nat × Nat)) (i : Instr) : Except Status Instr :=
  match checkFails checks with
  | some e => .error e
  | none => .ok i

/-- A check before others: its own error, or what they find. -/
theorem afterChecks_cons (q max : Nat) (checks : List (Nat × Nat)) (i : Instr) :
    afterChecks ((q, max) :: checks) i = checkQty q max >>= fun _ => afterChecks checks i := by
  simp only [afterChecks, checkFails, checkQty]
  split_ifs <;> rfl

theorem checkQty_map (q max : Nat) (i : Instr) : (checkQty q max).map (fun _ => i) = afterChecks [(q, max)] i := by
  rw [afterChecks_cons]
  cases checkQty q max <;> rfl

/-- A quantity check fails with one of its two errors. -/
theorem checkQty_error {q max : Nat} {e : Status} (h : checkQty q max = .error e) :
    e = .zeroRegistersRequested ∨ e = .tooManyRegistersRequested := by
  simp only [checkQty] at h
  split_ifs at h <;> cases h
  · exact .inl rfl
  · exact .inr rfl

theorem checkQty_map_error {q max : Nat} {e : Status} {f : Unit → Instr} (h : (checkQty q max).map f = .error e) :
    e = .zeroRegistersRequested ∨ e = .tooManyRegistersRequested := by
  cases hc : checkQty q max with
  | error e' => rw [hc] at h; cases h; exact checkQty_error hc
  | ok _ => rw [hc] at h; cases h

/-- The request of a function fails with an error of its quantity checks alone. -/
theorem buildRequest_error {s : State} {e : Status} (hf : isFunction s.fc = true) (h : buildRequest s = .error e) :
    e = .zeroRegistersRequested ∨ e = .tooManyRegistersRequested := by
  simp only [buildRequest] at h
  split at h
  case h_5 | h_6 | h_9 => cases h
  case h_10 =>
    split at h
    · next hc => cases h; exact checkQty_error hc
    · exact checkQty_map_error h
  case h_11 =>
    refine absurd hf (Bool.eq_false_iff.1 ((isFunction_eq_false_iff s.fc).2 ?_))
    simp [functionCodes]; and_intros <;> assumption
  all_goals exact checkQty_map_error h

/-! How `REQ` ends (46_master.md R272). -/

/-- What `REQ` leaves of a request it built. -/
def State.requested (s : State) (i : Instr) : State :=
  { s.setQuantities with pdu := s.pdu.write (s.unit :: encode i), mphase := .sending, status := .ok }

/-- What `REQ` leaves of a request that failed a check. -/
def State.unrequested (s : State) (e : Status) : State :=
  { s with pdu := { s.pdu with len := 0 }, tx := { s.tx with len := 0 }, mphase := .errored, status := e }

/-- The phase decides no quantity register. -/
theorem setQuantities_setMphase (s : State) (p : MPhase) :
    (s.setMphase p).setQuantities = s.setQuantities.setMphase p := by
  unfold State.setQuantities
  simp only [State.setMphase_fc]
  split <;> rfl

section
variable {s : State}

theorem runReq_of_sending (h : s.mphase = .sending) : runReq s = s.setStatus .busy := if_pos h

variable (idle : s.mphase ≠ .sending)
include idle

theorem runReq_of_not_isFunction (hf : isFunction s.fc = false) : runReq s = s.setStatus .badCommand := by
  simp only [runReq, if_neg idle, hf, Bool.not_false, if_true, State.raiseLocal_eq]

variable (hf : isFunction s.fc = true)
include hf

theorem runReq_of_error {e : Status} (hb : buildRequest s = .error e) : runReq s = s.unrequested e := by
  have build : buildRequest (s.setMphase .building) = .error e := hb
  simp only [runReq, if_neg idle, hf, Bool.not_true, Bool.false_eq_true, if_false, build]
  simp only [State.unrequested, State.setPdu, State.setTx, State.setMphase, State.raiseLocal, State.setStatus,
    ByteBuf.clear]

theorem runReq_of_ok {i : Instr} (hb : buildRequest s = .ok i) : runReq s = s.requested i := by
  have build : buildRequest (s.setMphase .building) = .ok i := hb
  simp only [runReq, if_neg idle, hf, Bool.not_true, Bool.false_eq_true, if_false, build, setQuantities_setMphase]
  simp only [State.requested, State.setPdu, State.setMphase, State.setStatus]

/-- `REQ` ends as the row of its function says. -/
theorem runReq_row {checks : List (Nat × Nat)} {i : Instr} (row : buildRequest s = afterChecks checks i) :
    runReq s = reqEnds s checks (encode i) s.setQuantities := by
  rw [afterChecks] at row
  rw [reqEnds]
  split
  · next fails => rw [fails] at row; exact runReq_of_error idle hf row
  · next passes => rw [passes] at row; exact runReq_of_ok idle hf row

end

/-- `REQ` refuses, fails a quantity check, or leaves the request it built. -/
theorem runReq_cases (s : State) :
    (∃ e, (e = .busy ∨ e = .badCommand) ∧ runReq s = s.setStatus e) ∨
      (∃ e, (e = .zeroRegistersRequested ∨ e = .tooManyRegistersRequested) ∧ runReq s = s.unrequested e) ∨
      ∃ i, isFunction s.fc = true ∧ buildRequest s = .ok i ∧ runReq s = s.requested i := by
  by_cases sending : s.mphase = .sending
  · exact .inl ⟨_, .inl rfl, runReq_of_sending sending⟩
  cases hf : isFunction s.fc with
  | false => exact .inl ⟨_, .inr rfl, runReq_of_not_isFunction sending hf⟩
  | true =>
    cases hb : buildRequest s with
    | error e => exact .inr (.inl ⟨e, buildRequest_error hf hb, runReq_of_error sending hf hb⟩)
    | ok i => exact .inr (.inr ⟨i, rfl, rfl, runReq_of_ok sending hf hb⟩)

/-! The bytes a row writes (46_master.md R273). -/

/-- The two bytes of `DATALEN` as a quantity. -/
theorem be_ofNat (n : Nat) : be (BitVec.ofNat 16 n) = [BitVec.ofNat 8 (n / 256), BitVec.ofNat 8 (n % 256)] := by
  rw [be, hi8_ofNat, lo8_ofNat]

/-- The two bytes of a coil value: bit 0 of `VAL` decides (46_master.md R273). -/
theorem be_coilValue (v : Word) :
    be (coilValue v) = if v.getLsbD 0 then [0xFF, 0x00] else [0x00, 0x00] := by
  rw [coilValue]
  split <;> rfl

/-- The ten function codes (30_encoding.md R100). -/
theorem isFunction_iff (fc : Byte) :
    isFunction fc = true ↔
      fc = 0x01 ∨ fc = 0x02 ∨ fc = 0x03 ∨ fc = 0x04 ∨ fc = 0x05 ∨ fc = 0x06 ∨ fc = 0x0F ∨ fc = 0x10 ∨ fc = 0x16 ∨
        fc = 0x17 := by
  simp only [isFunction, List.contains_iff_mem, functionCodes, List.mem_cons, List.not_mem_nil, or_false,
    ← BitVec.toNat_inj]
  rfl

/-! The quantity register a row writes (46_master.md R273, R275). -/

section
variable {s : State}

/-- The multiple writes put `DATALEN` into `QTY`. -/
theorem setQuantities_of_writing (h : s.fc = 0x0F ∨ s.fc = 0x10) :
    s.setQuantities = { s with qty := BitVec.ofNat 16 s.data.len.toNat } := by
  rw [BitVec.ofNat_toNat]
  rcases h with h | h <;> simp only [State.setQuantities, h] <;> rfl

/-- Read/write multiple puts `DATALEN` into `WQTY`. -/
theorem setQuantities_of_rwRegs (h : s.fc = 0x17) :
    s.setQuantities = { s with wqty := BitVec.ofNat 16 s.data.len.toNat } := by
  rw [BitVec.ofNat_toNat]
  simp only [State.setQuantities, h]
  rfl

/-- Every other function leaves both. -/
theorem setQuantities_of_other (h : s.fc.toNat ∉ [0x0F, 0x10, 0x17]) : s.setQuantities = s := by
  unfold State.setQuantities
  split
  case h_4 => rfl
  all_goals exact absurd (by simp [*]) h

/-- `REQ` by its row: the checks, the bytes of the PDU, the quantity register. -/
theorem exec_req_row (idle : s.mphase ≠ .sending) (hf : isFunction s.fc = true) {checks : List (Nat × Nat)}
    {i : Instr} {p : List Byte} {s' : State} (row : buildRequest s = afterChecks checks i) (bytes : encode i = p)
    (register : s.setQuantities = s') : exec .req s = .next (reqEnds s checks p s') := by
  subst bytes register
  exact congrArg Host.Outcome.next (runReq_row idle hf row)

end

/-- Settles O44: each row of R273 by its checks, its bytes and its quantity register (`exec_req_row`). -/
theorem reqCommand : Obligations.ReqCommand := by
  intro s _
  refine ite_prop_iff_and.2 ⟨fun sending => congrArg Host.Outcome.next (runReq_of_sending sending), fun idle => ?_⟩
  refine ite_prop_iff_and.2 ⟨fun hf => congrArg Host.Outcome.next (runReq_of_not_isFunction idle hf), fun hf => ?_⟩
  have hf : isFunction s.fc = true := by simpa using hf
  have unchanged {fc : Byte} (h : s.fc = fc) (hfc : fc.toNat ∉ [0x0F, 0x10, 0x17]) : s.setQuantities = s :=
    setQuantities_of_other (h ▸ hfc)
  refine ite_prop_iff_and.2 ⟨fun h => ?_, fun h1 => ?_⟩
  · rcases h with h | h <;>
      exact exec_req_row idle hf (by simp only [buildRequest, h]; exact checkQty_map ..) (by rw [h]; rfl)
        (unchanged h (by decide))
  refine ite_prop_iff_and.2 ⟨fun h => ?_, fun h3 => ?_⟩
  · rcases h with h | h <;>
      exact exec_req_row idle hf (by simp only [buildRequest, h]; exact checkQty_map ..) (by rw [h]; rfl)
        (unchanged h (by decide))
  refine ite_prop_iff_and.2 ⟨fun h => ?_, fun h5 => ?_⟩
  · exact exec_req_row idle hf (i := .wrCoil s.addr (coilValue s.val)) (by simp only [buildRequest, h]; rfl)
      (by rw [encode, be_coilValue]; rfl) (unchanged h (by decide))
  refine ite_prop_iff_and.2 ⟨fun h => ?_, fun h6 => ?_⟩
  · exact exec_req_row idle hf (i := .wrReg s.addr s.val) (by simp only [buildRequest, h]; rfl) rfl
      (unchanged h (by decide))
  refine ite_prop_iff_and.2 ⟨fun h => ?_, fun h15 => ?_⟩
  · exact ⟨_, packedAs_pack s.data.words,
      exec_req_row idle hf (by simp only [buildRequest, h]; exact checkQty_map ..) (by rw [encode, be_ofNat]; rfl)
        (setQuantities_of_writing (.inl h))⟩
  refine ite_prop_iff_and.2 ⟨fun h => ?_, fun h16 => ?_⟩
  · exact exec_req_row idle hf (by simp only [buildRequest, h]; exact checkQty_map ..) (by rw [encode, be_ofNat]; rfl)
      (setQuantities_of_writing (.inr h))
  refine ite_prop_iff_and.2 ⟨fun h => ?_, fun h22 => ?_⟩
  · exact exec_req_row idle hf (i := .maskWr s.addr s.val s.val2) (by simp only [buildRequest, h]; rfl) rfl
      (unchanged h (by decide))
  have h : s.fc = 0x17 := by have := (isFunction_iff s.fc).1 hf; tauto
  refine ⟨h, exec_req_row idle hf (i := .rwRegs s.addr s.qty s.waddr (BitVec.ofNat 16 s.data.len.toNat)
    (BitVec.ofNat 8 (2 * s.data.len.toNat)) (words s.data.words)) ?_ (by rw [encode, be_ofNat]; rfl)
    (setQuantities_of_rwRegs h)⟩
  simp only [buildRequest, h]
  rw [afterChecks_cons, ← checkQty_map]
  cases checkQty s.qty.toNat 125 <;> rfl

/-! Framed requests (46_master.md R285 to R287). -/

section
variable {frame : State → State} {s : State}

theorem masterRequest_of_refused (h : (runReq s).status = .busy ∨ (runReq s).status = .badCommand) :
    masterRequest frame s = runReq s := if_pos h

theorem masterRequest_of_failed (h : ¬ ((runReq s).status = .busy ∨ (runReq s).status = .badCommand))
    (failed : (runReq s).status ≠ .ok) : masterRequest frame s = (runReq s).setTx (runReq s).tx.clear :=
  (if_neg h).trans (if_pos failed)

theorem masterRequest_of_ok (h : (runReq s).status = .ok) : masterRequest frame s = frame (runReq s) := by
  simp only [masterRequest, h]
  rfl

end

/-- A request that ended `OK` was built. -/
theorem requested_of_ok {s : State} (h : (runReq s).status = .ok) :
    ∃ i, isFunction s.fc = true ∧ buildRequest s = .ok i ∧ runReq s = s.requested i := by
  rcases runReq_cases s with ⟨e, he, hr⟩ | ⟨e, he, hr⟩ | built
  · rw [hr] at h; rcases he with rfl | rfl <;> cases h
  · rw [hr] at h; rcases he with rfl | rfl <;> cases h
  · exact built

/-- A refused request wrote `STATUS` alone (46_master.md R270, R272). -/
theorem runReq_eq_of_refused {s : State} (h : (runReq s).status = .busy ∨ (runReq s).status = .badCommand) :
    runReq s = { s with status := (runReq s).status } := by
  rcases runReq_cases s with ⟨e, -, hr⟩ | ⟨e, he, hr⟩ | ⟨i, -, -, hr⟩
  · rw [hr]; rfl
  · rw [hr] at h; rcases he with rfl | rfl <;> rcases h with h | h <;> cases h
  · rw [hr] at h; rcases h with h | h <;> cases h

/-- Of the operands a built request moves `QTY` and `WQTY` alone (46_master.md R275). -/
theorem requested_eq (s : State) (i : Instr) :
    ∃ q w, s.requested i =
      { s with qty := q, wqty := w, pdu := s.pdu.write (s.unit :: encode i), mphase := .sending, status := .ok } := by
  obtain ⟨q, w, hq⟩ := s.setQuantities_eq
  exact ⟨q, w, by rw [State.requested, hq]⟩

/-- The message of a built request: the unit id, then the instruction's encoding (30_encoding.md R109). -/
theorem requested_bytes {s : State} {i : Instr} (hb : buildRequest s = .ok i) :
    (s.requested i).pdu.bytes = s.unit :: encode i :=
  ByteBuf.bytes_write _ _ (by have := length_encode_of_buildRequest hb; rw [List.length_cons]; omega)

/-- What a built request is: one of the ten rows (46_master.md R273), its quantities within the row's bounds. -/
inductive Requests (s : State) : Instr → Prop
  | rdCoils (fc : s.fc = 0x01) (bound : s.qty.toNat ≤ 2000) : Requests s (.rdCoils s.addr s.qty)
  | rdDiscrete (fc : s.fc = 0x02) (bound : s.qty.toNat ≤ 2000) : Requests s (.rdDiscrete s.addr s.qty)
  | rdHolding (fc : s.fc = 0x03) (bound : s.qty.toNat ≤ 125) : Requests s (.rdHolding s.addr s.qty)
  | rdInput (fc : s.fc = 0x04) (bound : s.qty.toNat ≤ 125) : Requests s (.rdInput s.addr s.qty)
  | wrCoil (fc : s.fc = 0x05) : Requests s (.wrCoil s.addr (coilValue s.val))
  | wrReg (fc : s.fc = 0x06) : Requests s (.wrReg s.addr s.val)
  | wrCoils (fc : s.fc = 0x0F) (bound : s.data.len.toNat ≤ 1968) :
    Requests s (.wrCoils s.addr (BitVec.ofNat 16 s.data.len.toNat) (BitVec.ofNat 8 (ceil8 s.data.len.toNat))
      (pack s.data.words))
  | wrRegs (fc : s.fc = 0x10) (bound : s.data.len.toNat ≤ 123) :
    Requests s (.wrRegs s.addr (BitVec.ofNat 16 s.data.len.toNat) (BitVec.ofNat 8 (2 * s.data.len.toNat))
      (words s.data.words))
  | maskWr (fc : s.fc = 0x16) : Requests s (.maskWr s.addr s.val s.val2)
  | rwRegs (fc : s.fc = 0x17) (bound : s.qty.toNat ≤ 125) (wbound : s.data.len.toNat ≤ 121) :
    Requests s (.rwRegs s.addr s.qty s.waddr (BitVec.ofNat 16 s.data.len.toNat)
      (BitVec.ofNat 8 (2 * s.data.len.toNat)) (words s.data.words))

/-- Everything building a request can answer with. -/
theorem requests_of_buildRequest {s : State} {i : Instr} (h : buildRequest s = .ok i) : Requests s i := by
  simp only [buildRequest] at h
  split at h
  case h_1 hc => obtain ⟨hq, rfl⟩ := le_of_checkQty_map h; exact .rdCoils (BitVec.eq_of_toNat_eq hc) hq
  case h_2 hc => obtain ⟨hq, rfl⟩ := le_of_checkQty_map h; exact .rdDiscrete (BitVec.eq_of_toNat_eq hc) hq
  case h_3 hc => obtain ⟨hq, rfl⟩ := le_of_checkQty_map h; exact .rdHolding (BitVec.eq_of_toNat_eq hc) hq
  case h_4 hc => obtain ⟨hq, rfl⟩ := le_of_checkQty_map h; exact .rdInput (BitVec.eq_of_toNat_eq hc) hq
  case h_5 hc => cases h; exact .wrCoil (BitVec.eq_of_toNat_eq hc)
  case h_6 hc => cases h; exact .wrReg (BitVec.eq_of_toNat_eq hc)
  case h_7 hc => obtain ⟨hn, rfl⟩ := le_of_checkQty_map h; exact .wrCoils (BitVec.eq_of_toNat_eq hc) hn
  case h_8 hc => obtain ⟨hn, rfl⟩ := le_of_checkQty_map h; exact .wrRegs (BitVec.eq_of_toNat_eq hc) hn
  case h_9 hc => cases h; exact .maskWr (BitVec.eq_of_toNat_eq hc)
  case h_10 hc =>
    split at h
    · cases h
    · next hq =>
      have bound : s.qty.toNat ≤ 125 := (le_of_checkQty_map (f := fun _ => .req) (congrArg (Except.map _) hq)).1
      obtain ⟨hn, rfl⟩ := le_of_checkQty_map h
      exact .rwRegs (BitVec.eq_of_toNat_eq hc) bound hn
  case h_11 => cases h

/-- A request starts with the function code in `FC`. -/
theorem Requests.encode_eq {s : State} {i : Instr} (h : Requests s i) :
    i.layer = .wire ∧ ∃ p, encode i = s.fc :: p := by
  cases h with
  | rdCoils fc | rdDiscrete fc | rdHolding fc | rdInput fc | wrCoil fc | wrReg fc | wrCoils fc | wrRegs fc
  | maskWr fc | rwRegs fc => exact ⟨rfl, _, by rw [fc]; rfl⟩

/-- The message of a built request fits every transport: 2 to 253 bytes (30_encoding.md R87). -/
theorem length_requested {s : State} {i : Instr} (hb : buildRequest s = .ok i) :
    2 ≤ (s.requested i).pdu.bytes.length ∧ (s.requested i).pdu.bytes.length ≤ 253 := by
  obtain ⟨-, p, hp⟩ := (requests_of_buildRequest hb).encode_eq
  have long := length_encode_of_buildRequest hb
  rw [hp, List.length_cons] at long
  rw [requested_bytes hb, hp, List.length_cons, List.length_cons]
  omega

/-! The encoders on a message that fits (42_frame_encode.md R171 to R173). -/

section
variable {s : State} (two : 2 ≤ s.pdu.bytes.length)
include two

theorem State.Sound.runEncRtu_of_fits (h : s.Sound) (fits : s.pdu.bytes.length + 2 ≤ Config.bufMax) :
    runEncRtu s =
      { s.built with tx := s.tx.write (rtuFrame (crcSerial s.pdu.bytes) s.pdu.bytes), status := .ok } := by
  rw [runEncRtu, if_neg (by omega), h.ensureCrc_eq, State.crcOf_built]
  rfl

theorem runEncAscii_of_fits (fits : 2 * s.pdu.bytes.length + 5 ≤ Config.bufMax) :
    runEncAscii s = { s with tx := s.tx.write (asciiFrame s.pdu.bytes), status := .ok } :=
  if_neg (by omega)

theorem runEncMbap_of_fits (fits : s.pdu.bytes.length + 6 ≤ Config.bufMax) :
    runEncMbap s = { s with tx := s.tx.write (mbapFrame s.mtid s.pdu.bytes), status := .ok } :=
  if_neg (by omega)

end

/-- The frame of a message below 256 bytes: the high byte of its length is 0 (30_encoding.md R83). -/
theorem mbapFrame_of_short (w : Word) {m : List Byte} (h : m ≠ []) (short : m.length < 256) :
    mbapFrame w m = [hi8 w, lo8 w, 0, 0, 0, BitVec.ofNat 8 m.length] ++ m := by
  rw [mbapFrame_eq w h, Nat.div_eq_of_lt short, Nat.mod_eq_of_lt short]
  rfl

/-! The framed request of a transport: what it leaves of a request it built. -/

section
variable {s : State} (ok : (runReq s).status = .ok)
include ok

theorem length_runReq_of_ok : 2 ≤ (runReq s).pdu.bytes.length ∧ (runReq s).pdu.bytes.length ≤ 253 := by
  obtain ⟨i, -, hb, hr⟩ := requested_of_ok ok
  rw [hr]
  exact length_requested hb

theorem runReq_tx_of_ok : (runReq s).tx = s.tx := by
  obtain ⟨i, -, -, hr⟩ := requested_of_ok ok
  obtain ⟨q, w, he⟩ := requested_eq s i
  rw [hr, he]

theorem runReq_txid_of_ok : (runReq s).txid = s.txid := by
  obtain ⟨i, -, -, hr⟩ := requested_of_ok ok
  obtain ⟨q, w, he⟩ := requested_eq s i
  rw [hr, he]

theorem runMreqRtu_of_ok (h : s.Sound) :
    runMreqRtu s =
      { (runReq s).built with
        tx := s.tx.write (rtuFrame (crcSerial (runReq s).pdu.bytes) (runReq s).pdu.bytes) } := by
  obtain ⟨low, high⟩ := length_runReq_of_ok ok
  rw [runMreqRtu, masterRequest_of_ok ok, (runReq_sound h).runEncRtu_of_fits low (by rw [bufMax_eq]; omega),
    runReq_tx_of_ok ok, ← ok]
  rfl

theorem runMreqAscii_of_ok :
    runMreqAscii s = { runReq s with tx := s.tx.write (asciiFrame (runReq s).pdu.bytes) } := by
  obtain ⟨low, high⟩ := length_runReq_of_ok ok
  rw [runMreqAscii, masterRequest_of_ok ok, runEncAscii_of_fits low (by rw [bufMax_eq]; omega),
    runReq_tx_of_ok ok, ← ok]

theorem runMreqMbap_of_ok :
    runMreqMbap s =
      { runReq s with
        txid := s.txid + 1, mtid := s.txid + 1, res := s.txid + 1
        tx := s.tx.write (mbapFrame (s.txid + 1) (runReq s).pdu.bytes) } := by
  obtain ⟨low, high⟩ := length_runReq_of_ok ok
  have fits : (runNextTxid (runReq s)).pdu.bytes.length + 6 ≤ Config.bufMax :=
    Nat.le_trans (Nat.add_le_add_right high 6) (by decide)
  have next := runEncMbap_of_fits (s := runNextTxid (runReq s)) low fits
  rw [runMreqMbap, masterRequest_of_ok ok, next, ← runReq_tx_of_ok ok, ← runReq_txid_of_ok ok]
  simp only [runNextTxid, State.setStatus, State.setRes, State.setMtid, State.setTxid, ok]

end

/-- Settles O45: a refused request is `REQ`; a failed one had its `TXLEN` cleared already; a built one is framed by the
encoder of its transport, its message within every transport's bound (`length_requested`). -/
theorem mreqCommands : Obligations.MreqCommands := by
  intro s hs
  obtain ⟨sound, -⟩ := s.wf_iff.1 hs
  refine ⟨runReq s, rfl, ite_prop_iff_and.2 ⟨fun refused => ?_, fun accepted =>
    ite_prop_iff_and.2 ⟨fun failed => ?_, fun built => ?_⟩⟩⟩
  · have same (frame : State → State) : masterRequest frame s = runReq s := masterRequest_of_refused refused
    exact ⟨runReq_eq_of_refused refused, congrArg Host.Outcome.next (same _), congrArg Host.Outcome.next (same _),
      congrArg Host.Outcome.next (same _)⟩
  · have cleared (frame : State → State) :
        masterRequest frame s = { runReq s with tx := { s.tx with len := 0 } } := by
      rw [masterRequest_of_failed accepted failed]
      rcases runReq_cases s with ⟨e, he, hr⟩ | ⟨e, -, hr⟩ | ⟨i, -, -, hr⟩
      · exact absurd (hr ▸ he) accepted
      · rw [hr]; rfl
      · rw [hr] at failed; exact absurd rfl failed
    exact ⟨congrArg Host.Outcome.next (cleared _), congrArg Host.Outcome.next (cleared _),
      congrArg Host.Outcome.next (cleared _)⟩
  · have ok := not_not.1 built
    obtain ⟨low, high⟩ := length_runReq_of_ok ok
    rw [← mbapFrame_of_short _ (List.ne_nil_of_length_pos (by omega)) (by omega)]
    exact ⟨congrArg Host.Outcome.next (runMreqRtu_of_ok ok sound),
      congrArg Host.Outcome.next (runMreqAscii_of_ok ok), congrArg Host.Outcome.next (runMreqMbap_of_ok ok)⟩

end Sys2Proof.Machine
end

section
/-! PROOFS. The master builds what the slave parses (46_master.md R292 (b)). A framed request that ended `OK` leaves the
frame of its message; the decoder of the same transport takes it apart; the PDU is the encoding of a request whose data
is as long as its quantity requires. -/

namespace Sys2Proof.Machine

/-! The data of a built request (45_request_exec.md R235 (b)). -/

/-- The byte count of a request is the one its quantity requires, and its data bytes are all there. -/
def DataComplete : Instr → Prop
  | .wrCoils _ q c bytes => c.toNat = (q.toNat + 7) / 8 ∧ bytes.length = c.toNat
  | .wrRegs _ q c bytes => c.toNat = 2 * q.toNat ∧ bytes.length = c.toNat
  | .rwRegs _ _ _ q c bytes => c.toNat = 2 * q.toNat ∧ bytes.length = c.toNat
  | _ => True

section
variable {s : State} (h : s.data.wf = true) {i : Instr} (built : Requests s i)
include h built

theorem Requests.dataComplete : DataComplete i := by
  have len := WordBuf.length_words h
  cases built with
  | wrCoils fc bound =>
    have quantity : (BitVec.ofNat 16 s.data.len.toNat).toNat = s.data.len.toNat := by
      rw [BitVec.toNat_ofNat, Nat.mod_eq_of_lt (by omega)]
    have count : (BitVec.ofNat 8 (ceil8 s.data.len.toNat)).toNat = ceil8 s.data.len.toNat := by
      rw [BitVec.toNat_ofNat, Nat.mod_eq_of_lt (by rw [ceil8]; omega)]
    rw [DataComplete, quantity, count, length_pack, len]
    exact ⟨rfl, rfl⟩
  | wrRegs fc bound | rwRegs fc _ bound =>
    have quantity : (BitVec.ofNat 16 s.data.len.toNat).toNat = s.data.len.toNat := by
      rw [BitVec.toNat_ofNat, Nat.mod_eq_of_lt (by omega)]
    have count : (BitVec.ofNat 8 (2 * s.data.len.toNat)).toNat = 2 * s.data.len.toNat := by
      rw [BitVec.toNat_ofNat, Nat.mod_eq_of_lt (by omega)]
    rw [DataComplete, quantity, count, length_words, len]
    exact ⟨rfl, rfl⟩
  | _ => trivial

/-- The request read back from its encoding is the one built (30_encoding.md R109). -/
theorem Requests.decodePdu_encode : decodePdu (encode i) = .ok i := by
  have complete := built.dataComplete h
  refine Machine.decodePdu_encode built.encode_eq.1 ?_
  cases built with
  | wrCoils | wrRegs | rwRegs => exact decide_eq_true (Nat.le_of_eq complete.2)
  | _ => rfl

end

theorem Requests.isFunction {s : State} {i : Instr} (built : Requests s i) :
    isFunction ((encode i).headD 0) = true := by
  cases built <;> rfl

/-! A framed request and its decoding. -/

/-- A framed request that ended `OK` is one whose `REQ` did. -/
theorem runReq_ok_of_masterRequest {frame : State → State} {s : State} (ok : (masterRequest frame s).status = .ok) :
    (runReq s).status = .ok := by
  by_cases refused : (runReq s).status = .busy ∨ (runReq s).status = .badCommand
  · rwa [masterRequest_of_refused refused] at ok
  by_contra failed
  rw [masterRequest_of_failed refused failed] at ok
  exact failed ok

/-- `t` is left by a framed request of `s` that ended `OK`: `frame` of the request message is in `TXBUF`. -/
def Framed (frame : List Byte → List Byte) (s t : State) : Prop :=
  ∃ i, buildRequest s = .ok i ∧ t.pdu.bytes = s.unit :: encode i ∧ t.tx.bytes = frame (s.unit :: encode i)

/-- What the request commands leave is framed, whatever they do to other registers. -/
theorem framed_of_ok {frame : List Byte → List Byte} {s t : State} (ok : (runReq s).status = .ok)
    (pdu : t.pdu = (runReq s).pdu) (tx : t.tx = s.tx.write (frame (runReq s).pdu.bytes))
    (fits : ∀ m : List Byte, 2 ≤ m.length → m.length ≤ 253 → (frame m).length ≤ Config.bufMax) : Framed frame s t := by
  obtain ⟨low, high⟩ := length_runReq_of_ok ok
  obtain ⟨i, -, hb, hr⟩ := requested_of_ok ok
  have bytes : (runReq s).pdu.bytes = s.unit :: encode i := by rw [hr, requested_bytes hb]
  refine ⟨i, hb, by rw [pdu, bytes], ?_⟩
  rw [tx, ByteBuf.bytes_write_of_le _ (fits _ low high), bytes]

theorem runMreqRtu_framed {s : State} (h : s.Sound) (ok : (runMreqRtu s).status = .ok) :
    Framed (fun m => rtuFrame (crcSerial m) m) s (runMreqRtu s) := by
  have built := runReq_ok_of_masterRequest ok
  rw [runMreqRtu_of_ok built h]
  exact framed_of_ok built rfl rfl fun m _ _ => by rw [length_rtuFrame, bufMax_eq]; omega

theorem runMreqAscii_framed {s : State} (ok : (runMreqAscii s).status = .ok) :
    Framed asciiFrame s (runMreqAscii s) := by
  have built := runReq_ok_of_masterRequest ok
  rw [runMreqAscii_of_ok built]
  exact framed_of_ok built rfl rfl fun m _ _ => by rw [length_asciiFrame, bufMax_eq]; omega

theorem runMreqMbap_framed {s : State} (ok : (runMreqMbap s).status = .ok) :
    Framed (mbapFrame (s.txid + 1)) s (runMreqMbap s) := by
  have built := runReq_ok_of_masterRequest ok
  rw [runMreqMbap_of_ok built]
  exact framed_of_ok built rfl rfl fun m _ _ => by rw [length_mbapFrame _ _ (by omega), bufMax_eq]; omega

/-- `t` is left by a decoder that accepted the message `m` in `r`. -/
def Received (m : List Byte) (r t : State) : Prop := t.status = .ok ∧ t.pdu.bytes = m ∧ t.stores = r.stores

theorem received_accepted (r : State) {m : List Byte} (fits : m.length ≤ 253) : Received m r (r.accepted m) :=
  ⟨rfl, ByteBuf.bytes_write _ _ (by omega), rfl⟩

section
variable {r : State} {m : List Byte} (low : 2 ≤ m.length) (high : m.length ≤ 253)
include low high

theorem runDecRtu_received (h : r.Sound) (frame : r.rx.bytes = rtuFrame (crcSerial m) m) :
    Received m r (runDecRtu r) := by
  rw [h.runDecRtu_of_rtuFrame low frame]
  exact received_accepted r.built high

theorem runDecAscii_received (frame : r.rx.bytes = asciiFrame m) : Received m r (runDecAscii r) := by
  rw [runDecAscii_of_asciiFrame low frame]
  exact received_accepted r high

theorem runDecMbap_received {w : Word} (frame : r.rx.bytes = mbapFrame w m) : Received m r (runDecMbap r) := by
  rw [runDecMbap_of_mbapFrame low (by omega) frame]
  exact received_accepted { r with mtid := w, proto := 0, mlen := BitVec.ofNat 16 m.length } high

end

/-- A request message has 2 to 253 bytes (30_encoding.md R87). -/
theorem length_message {s : State} {i : Instr} (hb : buildRequest s = .ok i) :
    2 ≤ (s.unit :: encode i).length ∧ (s.unit :: encode i).length ≤ 253 := by
  rw [← requested_bytes hb]
  exact length_requested hb

/-- Settles O46: the request is framed, its decoder receives the message, and the PDU reads back as the request. -/
theorem masterBuildsWhatSlaveParses : Obligations.MasterBuildsWhatSlaveParses := by
  intro s t r rq dec hs hr hi ht ok hrx
  obtain ⟨sound, -⟩ := s.wf_iff.1 hs
  obtain ⟨soundR, -⟩ := r.wf_iff.1 hr
  obtain ⟨frame, framed, receives⟩ : ∃ frame, Framed frame s t ∧ ∀ {m : List Byte}, 2 ≤ m.length → m.length ≤ 253 →
      r.rx.bytes = frame m → ∃ r1, exec dec r = .next r1 ∧ Received m r r1 := by
    simp only [List.mem_cons, Prod.mk.injEq, List.not_mem_nil, or_false] at hi
    rcases hi with ⟨rfl, rfl⟩ | ⟨rfl, rfl⟩ | ⟨rfl, rfl⟩ <;> cases ht
    · exact ⟨_, runMreqRtu_framed sound ok, fun low high frame => ⟨_, rfl, runDecRtu_received low high soundR frame⟩⟩
    · exact ⟨_, runMreqAscii_framed ok, fun low high frame => ⟨_, rfl, runDecAscii_received low high frame⟩⟩
    · exact ⟨_, runMreqMbap_framed ok, fun low high frame => ⟨_, rfl, runDecMbap_received low high frame⟩⟩
  obtain ⟨i, hb, pdu, tx⟩ := framed
  obtain ⟨low, high⟩ := length_message hb
  have built := requests_of_buildRequest hb
  obtain ⟨r1, run, decoded, bytes, -⟩ := receives low high (hrx.trans tx)
  rw [pdu]
  refine ⟨r1, run, decoded, bytes, by rw [bytes]; rfl, i, ?_⟩
  rw [bytes]
  exact ⟨built.decodePdu_encode sound.data, rfl, built.isFunction, built.dataComplete sound.data⟩

end Sys2Proof.Machine
end

section
/-! PROOFS. Judging a response (46_master.md R270, R276, R279, R288 to R290). Checking a reply PDU, row by row, is the
spec's check; the envelope of a transport is its checks in their order, and the first that fails is a local error. -/

namespace Sys2Proof.Machine

/-! Checking a reply PDU (46_master.md R279). `s0` is the state the command started in, `s` the one the reply was
accepted in; the phase is overwritten by every outcome. -/

/-- A failed response (46_master.md R276), from any phase. -/
theorem rspFailed_rspFail (s : State) (p : MPhase) (e : Status) : RspFailed s ((s.setMphase p).rspFail e) e := by
  unfold State.rspFail
  cases hr : isReading s.fc with
  | true =>
    simp only [State.setMphase_fc, hr, if_true]
    refine ⟨?_, fun _ => rfl, fun h => absurd (hr.symm.trans h) (by simp)⟩
    simp only [State.loseData, State.setMphase, State.raiseLocal, State.setStatus]
  | false =>
    simp only [State.setMphase_fc, hr, Bool.false_eq_true, if_false]
    exact ⟨rfl, fun h => absurd (hr.symm.trans h) (by simp), fun _ => ⟨rfl, rfl⟩⟩

/-- The remote status of an exception code (46_master.md R279). -/
theorem exceptionStatus_eq (c : Byte) :
    exceptionStatus c =
      if c = 1 then .exceptionIllegalFunction
      else if c = 2 then .exceptionIllegalDataAddress
      else if c = 3 then .exceptionIllegalDataValue
      else if c = 4 then .exceptionSlaveDeviceFailure
      else .exceptionOther := by
  decide +revert

/-- A check: its failure, or the verdict past it. -/
theorem conclude_check {s0 s : State} {c q rest : Prop} [Decidable c] [Decidable q] {p : MPhase} {e : Status}
    {v : Verdict} {t : State} (h : t = conclude s0 (s.setMphase p) (if c then .failed e else v))
    (past : ¬ q → t = conclude s0 (s.setMphase p) v → rest) (same : c ↔ q := by exact Iff.rfl) :
    if q then RspFailed s t e else rest := by
  refine ite_prop_iff_and.2 ⟨fun fails => ?_, fun passes => past passes ?_⟩
  · rw [h, if_pos (same.2 fails)]; exact rspFailed_rspFail s p e
  · rw [h, if_neg fun fails => passes (same.1 fails)]

section
variable {s0 s t : State} {p : List Byte} {ph : MPhase}

/-- A reading function's reply (46_master.md R279). -/
theorem rspRead_of_readVerdict {need : Nat} {values : List Byte → List Word} {value : Nat → Word}
    (hv : need + 2 ≤ p.length → values (p.drop 2) = (List.range s.qty.toNat).map value)
    (h : t = conclude s0 (s.setMphase ph) (readVerdict s.qty.toNat need values p)) :
    RspRead s0 s t need p value := by
  refine conclude_check h fun count h => ite_prop_iff_and.2 ⟨fun big => ?_, fun small => ?_⟩
  · rw [h, if_pos (by rw [dataMax_eq]; exact big)]; rfl
  · rw [h, if_neg (by rw [dataMax_eq]; exact small), hv (by omega)]
    simp only [conclude, State.setData, State.setMphase, State.setStatus]

/-- The byte places of the fields of an echo, from byte `k` on. -/
def echoPlan : Nat → List (Word × Status) → List (Nat × Word × Status)
  | _, [] => []
  | k, (v, e) :: fs => (k, v, e) :: echoPlan (k + 2) fs

/-- The echo of a write that is long enough (46_master.md R279). -/
theorem rspEcho_of_echoFields {need : Nat} (long : ¬ p.length < need) : ∀ (fs : List (Word × Status)) (k : Nat),
    t = conclude s0 (s.setMphase ph) (echoFields k fs p) → RspEcho s t p need (echoPlan k fs)
  | [], k, h => by rw [echoPlan, RspEcho, if_neg long, h]; rfl
  | (v, e) :: fs, k, h => by
    rw [echoPlan, RspEcho, if_neg long]
    exact conclude_check h fun _ h => rspEcho_of_echoFields long fs (k + 2) h

/-- The echo of a write: its length, then its fields (46_master.md R279). -/
theorem rspEcho_of_echoVerdict {addr : Word} {fs : List (Word × Status)} {plan : List (Nat × Word × Status)}
    {need : Nat} (h : t = conclude s0 (s.setMphase ph) (echoVerdict addr fs p))
    (hn : need = 3 + 2 * fs.length := by rfl)
    (hp : plan = echoPlan 1 ((addr, .wrongResponseRegAddress) :: fs) := by rfl) :
    RspEcho s t p need plan := by
  subst hn hp
  by_cases short : p.length < 3 + 2 * fs.length
  · rw [echoPlan, RspEcho, if_pos short, h, echoVerdict, if_pos short]
    exact rspFailed_rspFail s ph _
  · rw [echoVerdict, if_neg short] at h
    exact rspEcho_of_echoFields short ((addr, .wrongResponseRegAddress) :: fs) 1 h

theorem getD_drop (p : List Byte) (n k : Nat) : (p.drop n).getD k 0 = p.getD (n + k) 0 := by
  simp [List.getD_eq_getElem?_getD]

/-! The rows of the check, for a reply that is no exception (46_master.md R279). -/

/-- Under an `FC` that is no function a reply that is no exception closes the request (46_master.md R279; log entry
12). -/
theorem verdict_of_not_isFunction (regular : ¬ (p.getD 0 0).getLsbD 7 = true) (hf : isFunction s.fc = false) :
    verdict s p = .closed := by
  have hfc := (isFunction_eq_false_iff s.fc).1 hf
  simp only [verdict, if_neg regular]
  split
  case h_11 => rfl
  all_goals exact absurd (by simp [functionCodes, *]) hfc

section
variable (regular : ¬ (p.getD 0 0).getLsbD 7 = true)
include regular

theorem verdict_bits (hf : s.fc = 0x01 ∨ s.fc = 0x02) :
    verdict s p = readVerdict s.qty.toNat (ceil8 s.qty.toNat) (fun d => unpack d s.qty.toNat) p := by
  rcases hf with hf | hf <;> rw [verdict, if_neg regular, hf] <;> rfl

theorem verdict_registers (hf : s.fc = 0x03 ∨ s.fc = 0x04 ∨ s.fc = 0x17) :
    verdict s p = readVerdict s.qty.toNat (2 * s.qty.toNat) (fun d => (unwords d).take s.qty.toNat) p := by
  rcases hf with hf | hf | hf <;> rw [verdict, if_neg regular, hf] <;> rfl

theorem verdict_wrCoil (hf : s.fc = 0x05) :
    verdict s p = echoVerdict s.addr [(coilValue s.val, .wrongResponseValue)] p := by
  rw [verdict, if_neg regular, hf]; rfl

theorem verdict_wrReg (hf : s.fc = 0x06) : verdict s p = echoVerdict s.addr [(s.val, .wrongResponseValue)] p := by
  rw [verdict, if_neg regular, hf]; rfl

theorem verdict_writing (hf : s.fc = 0x0F ∨ s.fc = 0x10) :
    verdict s p = echoVerdict s.addr [(s.qty, .wrongResponseQuantity)] p := by
  rcases hf with hf | hf <;> rw [verdict, if_neg regular, hf] <;> rfl

theorem verdict_maskWr (hf : s.fc = 0x16) :
    verdict s p =
      echoVerdict s.addr [(s.val, .wrongResponseAndMask), (s.val2, .wrongResponseOrMask)] p := by
  rw [verdict, if_neg regular, hf]; rfl

end

/-- Checking a reply PDU is the spec's check (46_master.md R279). -/
theorem checked_of_verdict (outcome : t = conclude s0 (s.setMphase ph) (verdict s p)) : Checked s0 s t p := by
  rw [Checked, ← exceptionStatus_eq]
  refine conclude_check outcome fun regular _ => ?_
  refine ite_prop_iff_and.2 ⟨fun hf => ?_, fun h1 => ?_⟩
  · rw [verdict_bits regular hf] at outcome
    exact rspRead_of_readVerdict (fun _ => List.map_congr_left fun k _ => by rw [unpackAt, getD_drop]) outcome
  refine ite_prop_iff_and.2 ⟨fun hf => ?_, fun h3 => ?_⟩
  · rw [verdict_registers regular hf] at outcome
    refine rspRead_of_readVerdict (fun long => ?_) outcome
    rw [take_unwords (by rw [List.length_drop]; omega)]
    exact List.map_congr_left fun k _ => by rw [getD_drop, getD_drop, ← Nat.add_assoc, Nat.add_right_comm]
  refine ite_prop_iff_and.2 ⟨fun hf => ?_, fun h5 => ?_⟩
  · exact rspEcho_of_echoVerdict (outcome.trans (by rw [verdict_wrCoil regular hf]))
  refine ite_prop_iff_and.2 ⟨fun hf => ?_, fun h6 => ?_⟩
  · exact rspEcho_of_echoVerdict (outcome.trans (by rw [verdict_wrReg regular hf]))
  refine ite_prop_iff_and.2 ⟨fun hf => ?_, fun h15 => ?_⟩
  · exact rspEcho_of_echoVerdict (outcome.trans (by rw [verdict_writing regular hf]))
  refine ite_prop_iff_and.2 ⟨fun hf => ?_, fun h22 => ?_⟩
  · exact rspEcho_of_echoVerdict (outcome.trans (by rw [verdict_maskWr regular hf]))
  have closed : isFunction s.fc = false := by
    by_contra hf
    have := (isFunction_iff s.fc).1 (by simpa using hf)
    tauto
  rw [outcome, verdict_of_not_isFunction regular closed]
  refine ⟨?_, rfl⟩
  simp only [conclude, State.loseData, State.setMphase, State.raiseLocal, State.setStatus]

end

/-! The envelope (46_master.md R276). -/

/-- What judging leaves of a response, by what its envelope check finds: a local error and no message, or the outcome of
checking the message's PDU. -/
def Enveloped (s0 s t : State) : Envelope → Prop
  | .error e => RspFailed { s with pdu := { s.pdu with len := 0 } } t e
  | .ok m => Judged s0 s t m

/-- An envelope check: its local error, or what the checks after it find. -/
theorem enveloped_ite {s0 s t : State} {c : Prop} [Decidable c] {e : Status} {r : Envelope} :
    Enveloped s0 s t (if c then .error e else r) ↔
      if c then RspFailed { s with pdu := { s.pdu with len := 0 } } t e else Enveloped s0 s t r := by
  split <;> exact Iff.rfl

section
variable {prep : State → State} {env : State → List Byte → Envelope} {s : State}

/-- Single flight (46_master.md R270). -/
theorem judge_of_idle (idle : s.mphase ≠ .sending) : judge prep env s = s.setStatus .badCommand := if_pos idle

variable (sending : s.mphase = .sending)
include sending

/-- No bytes: the receive timeout (46_master.md R276). -/
theorem judge_of_empty (empty : s.rx.bytes.length = 0) :
    RspFailed { s with pdu := { s.pdu with len := 0 } } (judge prep env s) .rxTimeout := by
  simp only [judge, sending, ne_eq, not_true_eq_false, if_false, if_pos empty]
  exact rspFailed_rspFail (s.setPdu s.pdu.clear) .validating .rxTimeout

/-- Otherwise the envelope decides; `s1` is the state in which it is evaluated. -/
theorem judge_enveloped {s1 : State} (bytes : ¬ s.rx.bytes.length = 0)
    (prepared : prep (s.setMphase .validating) = s1.setMphase .validating) :
    Enveloped s s1 (judge prep env s) (env (s1.setMphase .validating) s.rx.bytes) := by
  simp only [judge, sending, ne_eq, not_true_eq_false, if_false, if_neg bytes, prepared]
  cases env (s1.setMphase .validating) s.rx.bytes with
  | error e => exact rspFailed_rspFail (s1.setPdu s1.pdu.clear) .validating e
  | ok m => exact checked_of_verdict (s := s1.setPdu (s1.pdu.write m)) (ph := .validating) rfl

end

/-- Settles O47: the checks of the RTU envelope in their order; the CRC is the bit-serial one, its table built for a
frame long enough to have one. -/
theorem rspRtuCommand : Obligations.RspRtuCommand := by
  intro s hs
  obtain ⟨sound, -⟩ := s.wf_iff.1 hs
  refine ⟨fun idle => congrArg Host.Outcome.next (judge_of_idle idle), fun sending => ⟨runRspRtu s, rfl, ?_⟩⟩
  refine ite_prop_iff_and.2 ⟨judge_of_empty sending, fun bytes => ite_prop_iff_and.2 ⟨fun short => ?_, fun long => ?_⟩⟩
  · have judged : Enveloped s s (runRspRtu s) _ := judge_enveloped sending bytes (if_pos short)
    rwa [envelopeRtu, if_pos short] at judged
  · have built : (s.setMphase .validating).ensureCrc = s.built.setMphase .validating :=
      (sound.setMphase _).ensureCrc_eq
    have serial (m : List Byte) : (s.built.setMphase .validating).crcOf m = crcSerial m := State.crcOf_built s m
    have judged : Enveloped s s.built (runRspRtu s) _ :=
      judge_enveloped sending bytes ((if_neg long).trans built)
    rw [envelopeRtu, if_neg long, enveloped_ite, enveloped_ite, headD_eq_getD_zero, serial] at judged
    exact judged

/-- Settles O48: the checks of the ASCII envelope in their order, the LRC compared by the sum of the bytes. -/
theorem rspAsciiCommand : Obligations.RspAsciiCommand := by
  intro s
  refine ⟨fun idle => congrArg Host.Outcome.next (judge_of_idle idle), fun sending => ⟨runRspAscii s, rfl, ?_⟩⟩
  refine ite_prop_iff_and.2 ⟨judge_of_empty sending, fun bytes => ?_⟩
  have judged := judge_enveloped (prep := id) (env := envelopeAscii) (s1 := s) sending bytes rfl
  simp only [envelopeAscii, enveloped_ite, headD_eq_getD_zero, getLastD_eq_getD, List.dropLast_eq_take,
    length_hexdec_payload, ne_eq, lrc_eq_iff] at judged
  exact judged

/-- Settles O49: the checks of the MBAP envelope in their order, the header's fields as numbers. -/
theorem rspMbapCommand : Obligations.RspMbapCommand := by
  intro s
  refine ⟨fun idle => congrArg Host.Outcome.next (judge_of_idle idle), fun sending => ⟨runRspMbap s, rfl, ?_⟩⟩
  refine ite_prop_iff_and.2 ⟨judge_of_empty sending, fun bytes => ?_⟩
  have judged := judge_enveloped (prep := id) (env := envelopeMbap) (s1 := s) sending bytes rfl
  simp only [envelopeMbap, enveloped_ite, ne_eq, u16be_eq_zero_iff, u16be_toNat] at judged
  exact judged

end Sys2Proof.Machine
end

section
/-! PROOFS. Loop-back (46_master.md R292 (c), 42_frame_encode.md R175). What the slave answers to a request the master
built is an exception, or the reply its row's check expects; the reply frame passes the envelope of its transport. -/

namespace Sys2Proof.Machine

/-! What the functions answer, if they answer no exception (45_request_exec.md R240 to R252). -/

/-- A run of reads that succeeds returns one element each. -/
theorem length_of_seqReads (u : Byte) (b : BankName) : ∀ {n a : Nat} {s : State} {vs : List Word},
    (seqReads u b a n s).2 = .ok vs → vs.length = n
  | 0, _, _, _, h => by cases h; rfl
  | n + 1, a, s, vs, h => by
    simp only [seqReads] at h
    split at h
    · cases h
    split at h
    · cases h
    · next rest =>
      cases h
      rw [List.length_cons, length_of_seqReads u b (congrArg Prod.snd rest)]

section
variable {fc : Byte} {b : BankName} {u : Byte} {d : Store} {s : State} {p : List Byte}

theorem readFunction_ok {qmax : Nat} {count : Nat → Nat} {data : List Word → List Byte} {start qty : Word}
    (h : (readFunction fc b qmax count data start qty u d s).2 = .ok p) :
    ∃ es : List Word, es.length = qty.toNat ∧ p = [fc, BitVec.ofNat 8 (count qty.toNat)] ++ data es := by
  simp only [readFunction] at h
  split_ifs at h
  split at h
  · next reads => cases h; exact ⟨_, length_of_seqReads u b (congrArg Prod.snd reads), rfl⟩
  · cases h

theorem writeOne_ok {valid : Bool} {addr value : Word} {echo : List Byte}
    (h : (writeOne b valid addr value echo u d s).2 = .ok p) : p = echo := by
  simp only [writeOne] at h
  split_ifs at h
  split at h <;> cases h
  rfl

theorem writeMany_ok {qmax : Nat} {need : Nat → Nat} {values : List Byte → Nat → List Word} {start qty : Word}
    {count : Byte} {bytes : List Byte} (h : (writeMany fc b qmax need values start qty count bytes u d s).2 = .ok p) :
    p = fc :: (be start ++ be qty) := by
  simp only [writeMany] at h
  split_ifs at h
  split at h <;> cases h
  rfl

theorem maskWrite_ok {addr am om : Word} {echo : List Byte} (h : (maskWrite addr am om echo u d s).2 = .ok p) :
    p = echo := by
  simp only [maskWrite] at h
  split_ifs at h
  split at h
  · cases h
  split at h <;> cases h
  rfl

theorem readWrite_ok {rstart rqty wstart wqty : Word} {count : Byte} {bytes : List Byte}
    (h : (readWrite rstart rqty wstart wqty count bytes u d s).2 = .ok p) :
    ∃ es : List Word, es.length = rqty.toNat ∧ p = [0x17#8, BitVec.ofNat 8 (2 * rqty.toNat)] ++ words es := by
  simp only [readWrite] at h
  split_ifs at h
  split at h
  · cases h
  split at h
  · next reads => cases h; exact ⟨_, length_of_seqReads u .hr (congrArg Prod.snd reads), rfl⟩
  · cases h

end

/-! Verdicts that are no local error (46_master.md R279). -/

/-- The verdicts that end `OK` or with a remote exception. -/
def Verdict.fine : Verdict → Prop
  | .echoed | .data _ => True
  | .failed e => e.family = .remote
  | .closed | .tooLong => False

theorem family_exceptionStatus (c : Byte) : (exceptionStatus c).family = .remote := by
  unfold exceptionStatus
  split <;> rfl

/-- The reply of a reading function fits a request for as many elements. -/
theorem fine_readVerdict {qty need : Nat} (values : List Byte → List Word) (fc : Byte) {data : List Byte}
    (len : data.length = need) (byte : need < 256) (fits : qty ≤ Config.dataMax) :
    (readVerdict qty need values ([fc, BitVec.ofNat 8 need] ++ data)).fine := by
  have count : (([fc, BitVec.ofNat 8 need] ++ data).getD 1 0).toNat = need :=
    (BitVec.toNat_ofNat ..).trans (Nat.mod_eq_of_lt byte)
  rw [readVerdict, count, if_neg (by simp [len]; omega), if_neg (Nat.not_lt.2 fits)]
  trivial

/-- An exception reply is judged as the remote exception, whatever was asked. -/
theorem fine_exceptionReply (s : State) (fc c : Byte) : (verdict s (exceptionReply fc c)).fine := by
  have exceptional : (fc ||| 0x80#8).getLsbD 7 = true := by simp
  have failed : verdict s (exceptionReply fc c) = .failed (exceptionStatus c) := if_pos exceptional
  rw [failed]
  exact family_exceptionStatus c

/-! What the slave's functions answer fits the request, in the context `s` it was made in. -/

/-- A reply PDU of at most 252 bytes that is judged without a local error in the context `s`. -/
def Fits (s : State) (p : List Byte) : Prop := p.length ≤ 252 ∧ (verdict s p).fine

theorem fits_replyPdu {s : State} {fc : Byte} {a : Answer} (h : ∀ p, a = .ok p → Fits s p) :
    Fits s (replyPdu fc a) := by
  cases a with
  | error c => exact ⟨by simp [replyPdu, exceptionReply], fine_exceptionReply s fc c⟩
  | ok p => exact h p rfl

section
variable {s : State} {fc : Byte} {u : Byte} {d : Store} {r : State} {p : List Byte} (regular : fc.getLsbD 7 = false)
include regular

theorem fits_bits {b : BankName} {start : Word} (hf : s.fc = 0x01 ∨ s.fc = 0x02) (bound : s.qty.toNat ≤ 2000)
    (h : (readFunction fc b 2000 ceil8 pack start s.qty u d r).2 = .ok p) : Fits s p := by
  obtain ⟨es, len, rfl⟩ := readFunction_ok h
  have bytes : (pack es).length = ceil8 s.qty.toNat := by rw [length_pack, len]
  have byte : ceil8 s.qty.toNat ≤ 250 := by rw [ceil8]; omega
  refine ⟨by rw [List.length_append, bytes]; simp; omega, ?_⟩
  rw [verdict_bits (by simpa using regular) hf]
  exact fine_readVerdict _ fc bytes (by omega) bound

/-- The registers read, of whichever function. -/
theorem fits_words (hf : s.fc = 0x03 ∨ s.fc = 0x04 ∨ s.fc = 0x17) (bound : s.qty.toNat ≤ 125)
    (h : ∃ es : List Word, es.length = s.qty.toNat ∧ p = [fc, BitVec.ofNat 8 (2 * s.qty.toNat)] ++ words es) :
    Fits s p := by
  obtain ⟨es, len, rfl⟩ := h
  have bytes : (words es).length = 2 * s.qty.toNat := by rw [length_words, len]
  refine ⟨by rw [List.length_append, bytes]; simp; omega, ?_⟩
  rw [verdict_registers (by simpa using regular) hf]
  exact fine_readVerdict _ fc bytes (by omega) (by rw [dataMax_eq]; omega)

end

/-- The echo of a write of one field. -/
theorem fits_echo {s : State} {fc : Byte} {a v : Word} {e : Status}
    (row : verdict s (fc :: (be a ++ be v)) = echoVerdict a [(v, e)] (fc :: (be a ++ be v))) :
    Fits s (fc :: (be a ++ be v)) := by
  refine ⟨by simp, ?_⟩
  rw [row]
  simp [echoVerdict, echoFields, be, field, Verdict.fine]

/-- The echo of a mask write. -/
theorem fits_echo_maskWr {s : State} (hf : s.fc = 0x16) : Fits s (encode (.maskWr s.addr s.val s.val2)) := by
  refine ⟨by simp [encode], ?_⟩
  rw [verdict_maskWr (by simp [encode]) hf]
  simp [encode, echoVerdict, echoFields, be, field, Verdict.fine]

/-- The function that serves `i` answers an exception, or a reply that fits the context `s`. -/
def Suits (s : State) (i : Instr) : Prop :=
  ∃ fc f, (∀ r, runRequest i r = serve fc f r) ∧ ∀ u d r p, (f u d r).2 = .ok p → Fits s p

/-- A request is served by the function whose replies its own row expects; the quantity registers are those it wrote
(46_master.md R275). -/
theorem Requests.suits {s : State} {i : Instr} (built : Requests s i) : Suits s.setQuantities i := by
  have same {fc : Byte} (h : s.fc = fc) (hfc : fc.toNat ∉ [0x0F, 0x10, 0x17]) : s.setQuantities = s :=
    setQuantities_of_other (h ▸ hfc)
  cases built with
  | rdCoils fc bound =>
    rw [same fc (by decide)]
    exact ⟨_, _, fun _ => rfl, fun _ _ _ _ h => fits_bits rfl (.inl fc) bound h⟩
  | rdDiscrete fc bound =>
    rw [same fc (by decide)]
    exact ⟨_, _, fun _ => rfl, fun _ _ _ _ h => fits_bits rfl (.inr fc) bound h⟩
  | rdHolding fc bound =>
    rw [same fc (by decide)]
    exact ⟨_, _, fun _ => rfl, fun _ _ _ _ h => fits_words rfl (.inl fc) bound (readFunction_ok h)⟩
  | rdInput fc bound =>
    rw [same fc (by decide)]
    exact ⟨_, _, fun _ => rfl, fun _ _ _ _ h => fits_words rfl (.inr (.inl fc)) bound (readFunction_ok h)⟩
  | wrCoil fc =>
    rw [same fc (by decide)]
    exact ⟨_, _, fun _ => rfl, fun _ _ _ _ h => writeOne_ok h ▸ fits_echo (verdict_wrCoil (by simp) fc)⟩
  | wrReg fc =>
    rw [same fc (by decide)]
    exact ⟨_, _, fun _ => rfl, fun _ _ _ _ h => writeOne_ok h ▸ fits_echo (verdict_wrReg (by simp) fc)⟩
  | wrCoils fc bound =>
    rw [setQuantities_of_writing (.inl fc)]
    exact ⟨_, _, fun _ => rfl, fun _ _ _ _ h => writeMany_ok h ▸ fits_echo (verdict_writing (by simp) (.inl fc))⟩
  | wrRegs fc bound =>
    rw [setQuantities_of_writing (.inr fc)]
    exact ⟨_, _, fun _ => rfl, fun _ _ _ _ h => writeMany_ok h ▸ fits_echo (verdict_writing (by simp) (.inr fc))⟩
  | maskWr fc =>
    rw [same fc (by decide)]
    exact ⟨_, _, fun _ => rfl, fun _ _ _ _ h => maskWrite_ok h ▸ fits_echo_maskWr fc⟩
  | rwRegs fc bound wbound =>
    rw [setQuantities_of_rwRegs fc]
    exact ⟨_, _, fun _ => rfl, fun _ _ _ _ h =>
      fits_words (s := { s with wqty := _ }) rfl (.inr (.inr fc)) bound (readWrite_ok h)⟩

/-! The slave's part. -/

/-- `EXEC` on the message of a request the master built, for a present unit, leaves a reply that fits the request. -/
theorem runExec_fits {s : State} {i : Instr} (built : Requests s i) (data : s.data.wf = true) {r : State}
    (bytes : r.pdu.bytes = s.unit :: encode i) (present : r.store s.unit ≠ none) :
    (runExec r).status = .ok ∧ ∃ p, (runExec r).pdu.bytes = s.unit :: p ∧ Fits s.setQuantities p := by
  obtain ⟨d, hd⟩ := Option.ne_none_iff_exists'.1 present
  obtain ⟨-, rest, he⟩ := built.encode_eq
  obtain ⟨fc, f, run, fits⟩ := built.suits
  have decoded : decodePdu (s.fc :: rest) = .ok i := he ▸ built.decodePdu_encode data
  have unit : r.reqUnit = s.unit := reqUnit_of_bytes bytes
  obtain ⟨short, fine⟩ := fits_replyPdu (fc := fc) (fits s.unit d (r.setSphase .dispatching))
  rw [he] at bytes
  rw [runExec_of_decodePdu bytes hd decoded, run, serve_present fc f (unit ▸ hd), unit]
  exact ⟨rfl, _, ByteBuf.bytes_write _ _ (by rw [List.length_cons]; omega), short, fine⟩

/-- A slave cycle on the frame of a request the master built, of a running block with the unit, ends `OK` with a reply
that fits the request. -/
theorem slaveCycle_fits {s : State} {i : Instr} (built : Requests s i) (data : s.data.wf = true)
    {dec enc : State → State} {r : State} (run : r.run = true) (present : r.store s.unit ≠ none)
    (received : Received (s.unit :: encode i) (r.setSphase .decoding) (dec (r.setSphase .decoding)))
    (pdu : ∀ t, (enc t).pdu = t.pdu) :
    (slaveCycle dec enc r).status = .ok ∧
      ∃ p, (slaveCycle dec enc r).pdu.bytes = s.unit :: p ∧ Fits s.setQuantities p := by
  obtain ⟨decoded, bytes, stores⟩ := received
  have still : (dec (r.setSphase .decoding)).store s.unit ≠ none := by
    rw [State.store, stores]; exact present
  obtain ⟨executed, p, reply, fits⟩ := runExec_fits built data bytes still
  rw [slaveCycle_replying run decoded executed]
  refine ⟨rfl, p, ?_, fits⟩
  rw [State.setStatus_pdu, State.setSphase_pdu, pdu]
  exact reply

/-! The envelopes on the frames of replies (46_master.md R288 to R290). -/

/-- A message keeps its unit id in front of a trailer. -/
theorem headD_append {m : List Byte} (h : 0 < m.length) (rest : List Byte) : (m ++ rest).headD 0 = m.headD 0 := by
  cases m with
  | nil => cases h
  | cons u t => rfl

section
variable {s : State} {m : List Byte} (three : 3 ≤ m.length) (unit : m.headD 0 = s.unit)
include three unit

theorem envelopeRtu_rtuFrame : envelopeRtu s (rtuFrame (s.crcOf m) m) = .ok m := by
  have message : (rtuFrame (s.crcOf m) m).take m.length = m := List.take_left
  have low : (rtuFrame (s.crcOf m) m).getD m.length 0 = lo8 (s.crcOf m) := by simp [rtuFrame]
  have high : (rtuFrame (s.crcOf m) m).getD (m.length + 1) 0 = hi8 (s.crcOf m) := by simp [rtuFrame]
  have first : (rtuFrame (s.crcOf m) m).headD 0 = s.unit := (headD_append (by omega) _).trans unit
  simp only [envelopeRtu, length_rtuFrame, Nat.reduceSubDiff, Nat.add_sub_cancel, message, low, high, u16le_lo_hi,
    first, ne_eq, not_true_eq_false, if_false]
  exact if_neg (by omega)

theorem envelopeAscii_asciiFrame : envelopeAscii s (asciiFrame m) = .ok m := by
  have start : (asciiFrame m).headD 0 = 0x3A#8 := rfl
  have cr : (asciiFrame m).getD (2 * m.length + 3) 0 = 0x0D#8 := by simp [asciiFrame, Nat.mul_add]
  have lf : (asciiFrame m).getD (2 * m.length + 4) 0 = 0x0A#8 := by simp [asciiFrame, Nat.mul_add]
  have digits : ((asciiFrame m).drop 1).take (2 * m.length + 2) = hexenc (m ++ [lrc m]) := by
    have body : (hexenc (m ++ [lrc m])).length = 2 * m.length + 2 := by rw [length_hexenc, List.length_append]; rfl
    rw [← body]
    exact List.take_left
  have first : (m ++ [lrc m]).headD 0 = s.unit := (headD_append (by omega) _).trans unit
  simp only [envelopeAscii, length_asciiFrame, Nat.reduceSubDiff, start, cr, lf, digits, hexdec_hexenc,
    List.dropLast_concat, List.getLastD_concat, first, ne_eq, not_true_eq_false, or_self, if_false]
  exact if_neg (by omega)

theorem envelopeMbap_mbapFrame (fits : m.length ≤ 253) : envelopeMbap s (mbapFrame s.mtid m) = .ok m := by
  have message : (mbapFrame s.mtid m).drop 6 = m := by
    rw [mbapFrame_eq _ (List.ne_nil_of_length_pos (by omega))]
    rfl
  have first : (mbapFrame s.mtid m).getD 6 0 = s.unit := unit
  have len : (BitVec.ofNat 16 m.length).toNat = m.length := by
    rw [BitVec.toNat_ofNat, Nat.mod_eq_of_lt (by omega)]
  rw [envelopeMbap, message, first, length_mbapFrame _ m (by omega), mbapFrame, field_zero_mbapHeader,
    field_two_mbapHeader, field_four_mbapHeader, len, if_neg (by omega), if_neg (not_not_intro rfl),
    if_neg (not_not_intro rfl), if_neg (by omega), if_neg (not_not_intro rfl)]

end

/-! Judging the reply. -/

/-- A verdict that is no local error ends `OK` or with a remote exception. -/
theorem conclude_fine (s0 s : State) {v : Verdict} (h : v.fine) :
    (conclude s0 s v).status = .ok ∨ (conclude s0 s v).status.family = .remote := by
  cases v with
  | echoed | data => exact .inl rfl
  | failed e => exact .inr h
  | closed | tooLong => exact h.elim

/-- A response that passes its envelope and fits the request ends `OK` or with a remote exception. -/
theorem judge_fine {prep : State → State} {env : State → List Byte → Envelope} {s : State} {m : List Byte}
    (sending : s.mphase = .sending) (bytes : s.rx.bytes ≠ [])
    (accepted : env (prep (s.setMphase .validating)) s.rx.bytes = .ok m)
    (fine : (verdict (prep (s.setMphase .validating)) m.tail).fine) :
    (judge prep env s).status = .ok ∨ (judge prep env s).status.family = .remote := by
  have nonempty : ¬ s.rx.bytes.length = 0 := mt List.length_eq_zero_iff.1 bytes
  simp only [judge, sending, ne_eq, not_true_eq_false, if_false, if_neg nonempty, accepted]
  exact conclude_fine _ _ fine

/-! The loop (46_master.md R292 (c)). -/

/-- `t` is left by a request of `s` that is out: a reply is judged in the context the request left. -/
def Awaits (s t : State) : Prop :=
  t.mphase = .sending ∧ t.unit = s.unit ∧ ∀ p, verdict t p = verdict s.setQuantities p

/-- `REQ` itself leaves its request out; the three framed requests keep what a reply is judged by. -/
theorem awaits_of_ok {s : State} (ok : (runReq s).status = .ok) : Awaits s (runReq s) := by
  obtain ⟨i, -, -, hr⟩ := requested_of_ok ok
  obtain ⟨q, w, hq⟩ := s.setQuantities_eq
  rw [hr]
  exact ⟨rfl, by rw [State.requested, hq], fun p => rfl⟩

theorem runMreqRtu_awaits {s : State} (h : s.Sound) (ok : (runMreqRtu s).status = .ok) :
    Awaits s (runMreqRtu s) ∧ (runMreqRtu s).crcTab = crcTable ∧ (runMreqRtu s).crcValid = true := by
  have built := runReq_ok_of_masterRequest ok
  rw [runMreqRtu_of_ok built h]
  exact ⟨awaits_of_ok built, rfl, rfl⟩

theorem runMreqAscii_awaits {s : State} (ok : (runMreqAscii s).status = .ok) : Awaits s (runMreqAscii s) := by
  have built := runReq_ok_of_masterRequest ok
  rw [runMreqAscii_of_ok built]
  exact awaits_of_ok built

theorem runMreqMbap_awaits {s : State} (ok : (runMreqMbap s).status = .ok) :
    Awaits s (runMreqMbap s) ∧ (runMreqMbap s).mtid = s.txid + 1 := by
  have built := runReq_ok_of_masterRequest ok
  rw [runMreqMbap_of_ok built]
  exact ⟨awaits_of_ok built, rfl⟩

/-- Request, service, judgement: a transport whose decoder receives the request's frame and whose envelope accepts the
reply's frame closes the loop. The CRC table of the master is built by then, so judging builds none. -/
theorem loop_closes {frame reply : List Byte → List Byte} {dec enc prep : State → State}
    {env : State → List Byte → Envelope} {s t r : State} {b : ByteBuf} (data : s.data.wf = true)
    (framed : Framed frame s t) (awaits : Awaits s t) (run : r.run = true) (present : r.store s.unit ≠ none)
    (receives : ∀ {m : List Byte}, 2 ≤ m.length → m.length ≤ 253 → t.tx.bytes = frame m →
      Received m (r.setSphase .decoding) (dec (r.setSphase .decoding)))
    (pdu : ∀ x, (enc x).pdu = x.pdu)
    (replied : (slaveCycle dec enc r).status = .ok → Replied reply (slaveCycle dec enc r))
    (back : b.bytes = (slaveCycle dec enc r).tx.bytes)
    (prepared : prep (State.setMphase { t with rx := b } .validating) = State.setMphase { t with rx := b } .validating)
    (accepts : ∀ {m : List Byte}, 3 ≤ m.length → m.length ≤ 253 → m.headD 0 = t.unit →
      reply m ≠ [] ∧ env (State.setMphase { t with rx := b } .validating) (reply m) = .ok m) :
    (slaveCycle dec enc r).status = .ok ∧
      ((judge prep env { t with rx := b }).status = .ok ∨
        (judge prep env { t with rx := b }).status.family = .remote) := by
  obtain ⟨i, hb, -, tx⟩ := framed
  obtain ⟨low, high⟩ := length_message hb
  obtain ⟨sending, unit, context⟩ := awaits
  obtain ⟨served, p, message, -, fine⟩ :=
    slaveCycle_fits (requests_of_buildRequest hb) data run present (receives low high tx) pdu
  obtain ⟨⟨low, high⟩, replyTx⟩ := replied served
  rw [message] at low high replyTx
  obtain ⟨bytes, accepted⟩ := accepts low high unit.symm
  rw [← replyTx, ← back] at bytes accepted
  rw [← context] at fine
  rw [← prepared] at accepted
  refine ⟨served, judge_fine sending bytes accepted ?_⟩
  rw [prepared]
  exact fine

/-- Settles O50: each transport closes the loop (`loop_closes`): its decoder receives what its encoder framed, and its
envelope accepts the reply's frame. -/
theorem loopBack : Obligations.LoopBack := by
  intro s t r r' b rq sl rsp hs hr _ hi ht ok run hrx present hr' back
  obtain ⟨sound, -⟩ := s.wf_iff.1 hs
  obtain ⟨soundR, -⟩ := r.wf_iff.1 hr
  simp only [List.mem_cons, Prod.mk.injEq, List.not_mem_nil, or_false] at hi
  rcases hi with ⟨rfl, rfl, rfl⟩ | ⟨rfl, rfl, rfl⟩ | ⟨rfl, rfl, rfl⟩ <;> cases ht <;> cases hr'
  · obtain ⟨awaits, table, valid⟩ := runMreqRtu_awaits sound ok
    have serial (m : List Byte) : (runMreqRtu s).crcOf m = crcSerial m := by
      rw [State.crcOf, table]
      exact crc16_eq_crcSerial m
    have built (x : State) (h : x.crcValid = true) : (if x.rx.bytes.length < 5 then x else x.ensureCrc) = x := by
      split
      · rfl
      · exact if_pos h
    obtain ⟨served, judged⟩ := loop_closes sound.data (runMreqRtu_framed sound ok) awaits run present
      (fun low high frame => runDecRtu_received low high (soundR.setSphase _) (hrx.trans frame)) runEncRtu_pdu
      (runSlaveRtu_replied soundR run) back (prep := fun s => if s.rx.bytes.length < 5 then s else s.ensureCrc)
      (env := envelopeRtu) (built _ valid)
      fun {m} three _ unit => ⟨by simp [rtuFrame], by
        rw [← serial m]
        exact envelopeRtu_rtuFrame (s := State.setMphase { runMreqRtu s with rx := b } .validating) three unit⟩
    exact ⟨served, _, rfl, judged⟩
  · obtain ⟨served, judged⟩ := loop_closes sound.data (runMreqAscii_framed ok) (runMreqAscii_awaits ok) run present
      (fun low high frame => runDecAscii_received low high (hrx.trans frame)) runEncAscii_pdu
      (runSlaveAscii_replied run) back (prep := id) (env := envelopeAscii) rfl
      fun three _ unit => ⟨by simp [asciiFrame], envelopeAscii_asciiFrame three unit⟩
    exact ⟨served, _, rfl, judged⟩
  · obtain ⟨awaits, mtid⟩ := runMreqMbap_awaits ok
    have framed := runMreqMbap_framed ok
    have transaction : field r.rx.bytes 0 = (runMreqMbap s).mtid := by
      obtain ⟨_, _, _, tx⟩ := framed
      rw [hrx, tx, mbapFrame, field_zero_mbapHeader, mtid]
    obtain ⟨served, judged⟩ := loop_closes sound.data framed awaits run present
      (fun low high frame => runDecMbap_received low high (hrx.trans frame)) runEncMbap_pdu
      (runSlaveMbap_replied run) back (prep := id) (env := envelopeMbap) rfl
      fun three fits unit => ⟨by simp [mbapFrame, mbapHeader], by
        rw [transaction]
        exact envelopeMbap_mbapFrame (s := State.setMphase { runMreqMbap s with rx := b } .validating) three unit fits⟩
    exact ⟨served, _, rfl, judged⟩

end Sys2Proof.Machine
end

section
/-! PROOFS. What a command leaves when it fails (60_exceptions.md R305 to R312): an exception reply is the answer of a
function that did nothing, a discard is what the decoder or `EXEC` leaves of the cycle's state. -/

namespace Sys2Proof.Machine

/-! Exception replies (60_exceptions.md R306, R312). -/

/-- A function code has bit 7 clear, which an exception reply sets (30_encoding.md R85, R100). -/
theorem getLsbD_seven_of_isFunction {fc : Byte} (h : isFunction fc = true) : fc.getLsbD 7 = false := by
  decide +revert

/-- A reply message is read back from `PDUBUF`: it is no longer than 253 bytes (45_request_exec.md R230). -/
theorem Answered.bytes_reply {s : State} {fc : Byte} {r : State × Answer} (h : Answered s fc r) (t : State)
    (u : Byte) : (t.reply u (replyPdu fc r.2)).pdu.bytes = u :: replyPdu fc r.2 := by
  have short := h.length_replyPdu
  exact ByteBuf.bytes_write _ _ (by rw [List.length_cons]; omega)

/-- Settles O36: a function either raises exception 1, 2 or 3 in the state it was called in, or replies with its own
code, whose bit 7 is clear (`Answered`). -/
theorem exceptionReplies : Obligations.ExceptionReplies := by
  intro i s t hi h ok bit
  obtain rfl := eq_runRequest_of_exec hi h
  obtain ⟨r, answered, reply⟩ := runRequest_of_ok hi ok
  have bytes : (runRequest i s).pdu.bytes = s.reqUnit :: replyPdu ((encode i).headD 0) r.2 := by
    rw [reply]
    exact answered.bytes_reply _ _
  rw [bytes] at bit ⊢
  rcases answered with ⟨c, code, rfl⟩ | ⟨p, answer, -, -, function⟩
  · exact ⟨c, code, rfl, by rw [reply]; rfl⟩
  · have clear := getLsbD_seven_of_isFunction function
    rw [answer] at bit
    exact absurd (clear.symm.trans bit) (by decide)

/-! Discards (60_exceptions.md R307). -/

/-- A frame that is not accepted is discarded (43_frame_decode.md R185). -/
theorem Decoded.pdu_len_of_not_ok {n : Nat} {s t : State} (h : Decoded n s t) (bad : t.status ≠ .ok) :
    t.pdu.len = 0 := by
  rcases h with ⟨e, rfl⟩ | ⟨m, -, rfl⟩
  · rfl
  · exact absurd rfl bad

/-- `EXEC` that does not end `OK` has discarded the message (45_request_exec.md R230). -/
theorem runExec_of_not_ok {s : State} (bad : (runExec s).status ≠ .ok) : ∃ e, runExec s = s.discard e := by
  rcases runExec_cases s with discarded | ⟨i, hd, run⟩
  · exact discarded
  rw [run] at bad ⊢
  rcases runRequest_cases (layer_of_decodePdu hd) s with discarded | ⟨t, r, -, -, replied⟩
  · exact ⟨_, discarded⟩
  · exact absurd (congrArg State.status replied) bad

/-- An instruction that accesses no datastore keeps the datastores and the host's schedule. -/
theorem Keeps.stores_hostQ {i : Instr} (hi : accessesStores i = false) {s t : State} (h : Keeps i s t) :
    t.stores = s.stores ∧ t.hostQ = s.hostQ := by
  cases i <;> simp only [accessesStores, reduceCtorEq] at hi <;> (have h : t = _ := h; rw [h]; exact ⟨rfl, rfl⟩)

/-- How a slave cycle ends (45_request_exec.md R254): stopped, with the discard of its decoder or of `EXEC`, or `OK`. -/
theorem slaveCycle_ind {P : State → Prop} {dec enc : State → State} {s : State}
    (stopped : P ((s.setTx s.tx.clear).setStatus .stopRequested))
    (undecoded : ∀ r, r = dec (s.setSphase .decoding) → r.status ≠ .ok → P r.noReply)
    (unexecuted : ∀ r, r = dec (s.setSphase .decoding) → (runExec r).status ≠ .ok → P (runExec r).noReply)
    (replied : ∀ r : State, P (r.setStatus .ok)) : P (slaveCycle dec enc s) := by
  simp only [slaveCycle]
  split
  · exact stopped
  split
  · exact undecoded _ rfl ‹_›
  split
  · exact unexecuted _ rfl ‹_›
  · exact replied _

/-- `t` is left by a slave cycle that began in `s` and dropped its frame (60_exceptions.md R307). -/
def Dropped (s t : State) : Prop :=
  t.tx.len = 0 ∧ t.pdu.len = 0 ∧ t.sphase = .idle ∧ t.stores = s.stores ∧ t.hostQ = s.hostQ

/-- A slave cycle drops its frame on a discard when its decoder clears `PDULEN` on one and makes no bank access. -/
theorem slaveCycle_dropped {dec enc : State → State} (drops : ∀ r, (dec r).status ≠ .ok → (dec r).pdu.len = 0)
    (keeps : ∀ r, (dec r).stores = r.stores ∧ (dec r).hostQ = r.hostQ) (s : State) :
    (slaveCycle dec enc s).status.family = .discarded → Dropped s (slaveCycle dec enc s) := by
  refine slaveCycle_ind (P := fun t => t.status.family = .discarded → Dropped s t) nofun ?_ ?_ fun _ => nofun
  · rintro r rfl bad -
    exact ⟨rfl, drops _ bad, rfl, keeps _⟩
  · rintro r rfl bad -
    obtain ⟨e, discard⟩ := runExec_of_not_ok bad
    rw [discard]
    exact ⟨rfl, rfl, rfl, keeps _⟩

/-- Settles O42: each cycle is `slaveCycle` with the decoder of its transport. -/
theorem slaveDiscards : Obligations.SlaveDiscards := by
  intro s t cmd hc h
  rcases hc with rfl | rfl | rfl <;> injection h with h <;> subst h
  · refine slaveCycle_dropped (fun r bad => ?_) (fun r => (runDecRtu_keeps r).stores_hostQ rfl) s
    rcases runDecRtu_decoded r with hd | hd <;> exact hd.pdu_len_of_not_ok bad
  · exact slaveCycle_dropped (fun r bad => (runDecAscii_decoded r).pdu_len_of_not_ok bad)
      (fun r => Keeps.stores_hostQ (i := .decAscii) rfl (runDecAscii_decoded r).keeps) s
  · refine slaveCycle_dropped (fun r bad => ?_) (fun r => (runDecMbap_keeps r).stores_hostQ rfl) s
    rcases runDecMbap_decoded r with hd | ⟨_, _, _, hd⟩ <;> exact hd.pdu_len_of_not_ok bad

end Sys2Proof.Machine
end

section
/-! PROOFS. The statuses a command can end with (60_exceptions.md R327): of each operation the statuses its branches
name, of each composite command those of its parts. -/

namespace Sys2Proof.Machine

/-! Codecs and envelopes. -/

@[simp] theorem State.accept_status (s : State) (m : List Byte) : (s.accept m).status = .ok := rfl

/-- A command that checks its operands first ends with the error of the check, or `OK`. -/
theorem status_of_operandCheck {c : Prop} [Decidable c] {s t : State} {e : Status} (ht : t.status = .ok) :
    (if c then s.raiseLocal e else t).status ∈ [.ok, e] := by
  split
  · exact List.mem_cons_of_mem _ (List.mem_singleton_self e)
  · rw [ht]; exact List.mem_cons_self

theorem runEncRtu_status (s : State) : (runEncRtu s).status ∈ allowedStatuses .encRtu := status_of_operandCheck rfl

theorem runEncAscii_status (s : State) : (runEncAscii s).status ∈ allowedStatuses .encAscii :=
  status_of_operandCheck rfl

theorem runEncMbap_status (s : State) : (runEncMbap s).status ∈ allowedStatuses .encMbap := status_of_operandCheck rfl

/-! Frame decoders: one status per check, in their order (43_frame_decode.md R186 to R191). -/

theorem runDecRtu_status (s : State) : (runDecRtu s).status ∈ allowedStatuses .decRtu := by
  simp only [runDecRtu, decRtuFrame]
  split_ifs <;> simp [allowedStatuses]

theorem runDecAscii_status (s : State) : (runDecAscii s).status ∈ allowedStatuses .decAscii := by
  simp only [runDecAscii, decAsciiFrame]
  split_ifs <;> simp [allowedStatuses]

theorem runDecMbap_status (s : State) : (runDecMbap s).status ∈ allowedStatuses .decMbap := by
  simp only [runDecMbap, decMbapFrame]
  split_ifs <;> simp [allowedStatuses]

/-! Datastores and element access (44_bank.md R210 to R217). -/

theorem runDsNew_status (s : State) : (runDsNew s).status ∈ allowedStatuses .dsNew := by
  simp only [runDsNew, makeStore]
  split_ifs <;> simp [allowedStatuses]

/-- The default lengths are in range, so no size error arises (44_bank.md R211). -/
theorem runDsNewDefault_status (s : State) : (runDsNewDefault s).status ∈ allowedStatuses .dsNewDefault := by
  simp only [runDsNewDefault, makeStore, gt_iff_lt, lt_self_iff_false, or_self, if_false]
  split_ifs <;> simp [allowedStatuses]

theorem BankErr.status_mem (e : BankErr) : e.status ∈ allowedStatuses .bankRd := by
  cases e <;> simp [BankErr.status, allowedStatuses]

theorem runBankRd_status (s : State) : (runBankRd s).status ∈ allowedStatuses .bankRd := by
  unfold runBankRd
  split
  · simp [allowedStatuses]
  · exact BankErr.status_mem _

theorem runBankWr_status (s : State) : (runBankWr s).status ∈ allowedStatuses .bankWr := by
  unfold runBankWr
  split
  · simp [allowedStatuses]
  · exact BankErr.status_mem _

/-! Requests, `EXEC` and the slave cycles (45_request_exec.md R230, R254). -/

theorem runRequest_status {i : Instr} (hi : i.layer = .wire) (s : State) :
    (runRequest i s).status = .ok ∨ (runRequest i s).status = .discardedUnit := by
  rcases runRequest_cases hi s with h | ⟨t, r, -, -, h⟩ <;> rw [h]
  · exact .inr rfl
  · exact .inl rfl

theorem allowedStatuses_wire {i : Instr} (hi : i.layer = .wire) : allowedStatuses i = [.ok, .discardedUnit] := by
  cases i <;> simp only [Instr.layer, reduceCtorEq] at hi <;> rfl

theorem runExec_status (s : State) : (runExec s).status ∈ allowedStatuses .execReq := by
  simp only [runExec]
  split
  · split
    · simp [allowedStatuses]
    split
    · simp [allowedStatuses]
    · next hd =>
      rcases runRequest_status (layer_of_decodePdu hd) s with h | h <;> rw [h] <;> simp [allowedStatuses]
  · simp [allowedStatuses]

/-- A slave cycle adds to its decoder's statuses those of `EXEC` and the stop request; its encoder adds none. -/
theorem slaveCycle_status {dec enc : State → State} {l : List Status} (decodes : ∀ r, (dec r).status ∈ l)
    (hl : .stopRequested :: allowedStatuses .execReq ⊆ l) (s : State) : (slaveCycle dec enc s).status ∈ l := by
  obtain ⟨stop, executes⟩ := List.cons_subset.1 hl
  refine slaveCycle_ind (P := fun t => t.status ∈ l) stop ?_ ?_ fun r => executes (by simp [allowedStatuses])
  · rintro r rfl -
    exact decodes _
  · exact fun r _ _ => executes (runExec_status r)

/-! Requests of the master (46_master.md R272, R285). -/

theorem runReq_status (s : State) : (runReq s).status ∈ allowedStatuses .req := by
  rcases runReq_cases s with ⟨e, rfl | rfl, h⟩ | ⟨e, rfl | rfl, h⟩ | ⟨i, -, -, h⟩ <;> rw [h] <;>
    simp [allowedStatuses, State.unrequested, State.requested]

/-- A framed request ends as `REQ` does, or as the encoder it runs. -/
theorem masterRequest_status {frame : State → State} (frames : ∀ r, (frame r).status ∈ allowedStatuses .encRtu)
    (s : State) : (masterRequest frame s).status ∈ allowedStatuses .req := by
  have encoder : allowedStatuses .encRtu ⊆ allowedStatuses .req := by decide
  simp only [masterRequest]
  split
  · exact runReq_status s
  split
  · exact runReq_status s
  · exact encoder (frames _)

/-! Responses of the master (46_master.md R276, R279, R288 to R290). -/

@[simp] theorem State.rspFail_status (s : State) (e : Status) : (s.rspFail e).status = e := by
  rcases s.rspFail_cases e with h | h <;> rw [h] <;> rfl

/-- The statuses that checking a reply PDU can give (46_master.md R279). -/
def checkStatuses : List Status := [.ok, .badCommand, .wrongMessageLen] ++ echoStatuses ++ remoteStatuses

theorem exceptionStatus_mem (c : Byte) : exceptionStatus c ∈ remoteStatuses := by
  unfold exceptionStatus
  split <;> simp [remoteStatuses]

theorem status_of_readVerdict {qty need : Nat} {values : List Byte → List Word} {p : List Byte} {e : Status}
    (h : readVerdict qty need values p = .failed e) : e = .wrongMessageLen := by
  simp only [readVerdict] at h
  split_ifs at h
  cases h
  rfl

theorem status_of_echoFields {p : List Byte} {e : Status} : ∀ {fields : List (Word × Status)} {k : Nat},
    echoFields k fields p = .failed e → e ∈ fields.map Prod.snd
  | [], _, h => by cases h
  | (v, e') :: fields, k, h => by
    simp only [echoFields] at h
    split at h
    · cases h; exact List.mem_cons_self
    · exact List.mem_cons_of_mem _ (status_of_echoFields h)

theorem status_of_echoVerdict {addr : Word} {fields : List (Word × Status)} {p : List Byte} {e : Status}
    (hf : fields.map Prod.snd ⊆ checkStatuses) (h : echoVerdict addr fields p = .failed e) : e ∈ checkStatuses := by
  simp only [echoVerdict] at h
  split at h
  · cases h; decide
  split at h
  · cases h; decide
  · exact hf (status_of_echoFields h)

theorem status_of_verdict {s : State} {p : List Byte} {e : Status} (h : verdict s p = .failed e) :
    e ∈ checkStatuses := by
  simp only [verdict] at h
  split at h
  · cases h
    exact List.mem_append_right _ (exceptionStatus_mem _)
  split at h
  case h_1 | h_2 | h_3 | h_4 | h_5 => rw [status_of_readVerdict h]; decide
  case h_11 => cases h
  all_goals exact status_of_echoVerdict (by simp [checkStatuses, echoStatuses]) h

theorem conclude_status (s0 s : State) {v : Verdict} (h : ∀ e, v = .failed e → e ∈ checkStatuses) :
    (conclude s0 s v).status ∈ checkStatuses := by
  cases v with
  | echoed | data => exact List.mem_cons_self
  | failed e => rw [conclude, State.rspFail_status]; exact h e rfl
  | closed | tooLong => exact List.mem_cons_of_mem _ List.mem_cons_self

/-- Judging a response ends with the receive timeout, an error of the envelope, or a status of the check. -/
theorem judge_status {prep : State → State} {env : State → List Byte → Envelope} {l : List Status}
    (envelope : ∀ r f e, env r f = .error e → e ∈ l) (hl : .rxTimeout :: checkStatuses ⊆ l) (s : State) :
    (judge prep env s).status ∈ l := by
  obtain ⟨timeout, checks⟩ := List.cons_subset.1 hl
  simp only [judge]
  split
  · exact checks (by simp [checkStatuses])
  split
  · rw [State.rspFail_status]; exact timeout
  split
  · next he => rw [State.rspFail_status]; exact envelope _ _ _ he
  · exact checks (conclude_status _ _ fun e => status_of_verdict)

theorem status_of_envelopeRtu {s : State} {f : List Byte} {e : Status} (h : envelopeRtu s f = .error e) :
    e ∈ allowedStatuses .rspRtu := by
  simp only [envelopeRtu] at h
  split_ifs at h <;> cases h <;> simp [allowedStatuses]

theorem status_of_envelopeAscii {s : State} {f : List Byte} {e : Status} (h : envelopeAscii s f = .error e) :
    e ∈ allowedStatuses .rspAscii := by
  simp only [envelopeAscii] at h
  split_ifs at h <;> cases h <;> simp [allowedStatuses]

theorem status_of_envelopeMbap {s : State} {f : List Byte} {e : Status} (h : envelopeMbap s f = .error e) :
    e ∈ allowedStatuses .rspMbap := by
  simp only [envelopeMbap] at h
  split_ifs at h <;> cases h <;> simp [allowedStatuses]

/-- Settles O53: the statuses of each instruction are those of the operation it runs. -/
theorem statusMatrix : Obligations.StatusMatrix := by
  intro i s t h
  cases hi : i.layer with
  | wire =>
    obtain rfl := eq_runRequest_of_exec hi h
    rw [allowedStatuses_wire hi]
    rcases runRequest_status hi s with hs | hs <;> rw [hs] <;> decide
  | command =>
    cases i <;> simp only [Instr.layer, reduceCtorEq] at hi <;> injection h with h <;> subst h
    case crc16 | lrc | hexdec | nextTxid | start | stop | undefinedCmd => exact List.mem_singleton_self _
    case hexenc | mbapBuild | mbapParse => exact status_of_operandCheck rfl
    case encRtu => exact runEncRtu_status s
    case encAscii => exact runEncAscii_status s
    case encMbap => exact runEncMbap_status s
    case decRtu => exact runDecRtu_status s
    case decAscii => exact runDecAscii_status s
    case decMbap => exact runDecMbap_status s
    case dsNew => exact runDsNew_status s
    case dsNewDefault => exact runDsNewDefault_status s
    case bankRd => exact runBankRd_status s
    case bankWr => exact runBankWr_status s
    case execReq => exact runExec_status s
    case slaveRtu =>
      have decoder : allowedStatuses .decRtu ⊆ allowedStatuses .slaveRtu := by decide
      exact slaveCycle_status (fun r => decoder (runDecRtu_status r)) (by decide) s
    case slaveAscii =>
      have decoder : allowedStatuses .decAscii ⊆ allowedStatuses .slaveAscii := by decide
      exact slaveCycle_status (fun r => decoder (runDecAscii_status r)) (by decide) s
    case slaveMbap =>
      have decoder : allowedStatuses .decMbap ⊆ allowedStatuses .slaveMbap := by decide
      exact slaveCycle_status (fun r => decoder (runDecMbap_status r)) (by decide) s
    case req => exact runReq_status s
    case mreqRtu => exact masterRequest_status runEncRtu_status s
    case mreqAscii => exact masterRequest_status runEncAscii_status s
    case mreqMbap => exact masterRequest_status (fun r => runEncMbap_status (runNextTxid r)) s
    case rspRtu => exact judge_status (fun _ _ _ => status_of_envelopeRtu) (by decide) s
    case rspAscii => exact judge_status (fun _ _ _ => status_of_envelopeAscii) (by decide) s
    case rspMbap => exact judge_status (fun _ _ _ => status_of_envelopeMbap) (by decide) s

end Sys2Proof.Machine
end

section
/-! PROOFS. Run control (60_exceptions.md R316, R317), the steps that start no command (R315, R329,
70_reset_and_hazards.md R350) and the controller's access to the port registers (10_state.md R21, 30_encoding.md R122,
60_exceptions.md R321). -/

namespace Sys2Proof.Machine

/-- Settles O51: each command is two writes, of `RUN` and of `STATUS`. -/
theorem startStop : Obligations.StartStop := fun _ => ⟨rfl, rfl⟩

/-! Steps that start no command. -/

/-- With nothing pending the block is idle (60_exceptions.md R329). -/
theorem step_of_idle {s : State} (h : s.inputs = []) : step s = .next s := by
  simp only [step, h]

/-- An access to the port during a command has no meaning (70_reset_and_hazards.md R350 (a); log entry 8). -/
theorem step_of_overlap {s : State} {rest : List Input} (h : s.inputs = .overlap :: rest) :
    step s = .fault .portOverlap := by
  simp only [step, h]

/-- The same for the command that the access overlaps. -/
theorem step_of_overlapped {s : State} {i : Input} {code : Byte} {during : List Slot} {rest : List Input}
    (h : s.inputs = i :: .overlap :: rest) (hc : commandOf i = some (code, during)) :
    step s = .fault .portOverlap := by
  have hi : i ≠ .overlap := ne_overlap_of_commandOf hc
  simp only [step, h, hc, overlapped, if_true]

/-- Settles O59: the idle step, the stop signal as an input, and the two places where the overlap is found. -/
theorem stepOutside : Obligations.StepOutside := fun _ =>
  ⟨step_of_idle, fun _ h => step_of_input h rfl nofun, fun _ => step_of_overlap, fun _ _ _ _ => step_of_overlapped⟩

/-! Port registers. -/

/-- A write to a port register other than `CMD` is the write alone (10_state.md R21). -/
theorem step_of_portWrite {s : State} {r : PortReg} {v : BitVec 32} {rest : List Input} (hr : r ≠ .cmd)
    (h : s.inputs = .portWrite r v :: rest) : step s = .next (writePort { s with inputs := rest } r v) := by
  refine step_of_input h ?_ nofun
  cases r <;> simp [commandOf] at hr ⊢

/-- A write changes what is read from the written register alone: each register is a field of its own, and a length
register is the length of its own buffer. -/
theorem readPort_writePort_ne (s : State) {r r' : PortReg} (v : BitVec 32) (h : r' ≠ r) :
    readPort (writePort s r v) r' = readPort s r' := by
  cases r with
  | rxLen | pduLen | dataLen =>
    simp only [writePort]
    split
    · rfl
    · cases r' <;> simp [readPort] at h ⊢
  | _ => cases r' <;> simp [readPort, writePort] at h ⊢

/-- A write to a read-only register is ignored (60_exceptions.md R321). -/
theorem writePort_readOnly {r : PortReg} (hr : r ∈ [PortReg.status, .res, .proto, .mlen, .txLen]) (s : State)
    (v : BitVec 32) : writePort s r v = s := by
  fin_cases hr <;> rfl

/-- The eleven bits of a length register hold every length up to the capacity. -/
theorem setWidth_setWidth_of_le {v : BitVec 32} {n : Nat} (hv : ¬ n < v.toNat) (hn : n < 2 ^ 11) :
    (v.setWidth 11).setWidth 32 = v := by
  apply BitVec.eq_of_toNat_eq
  simp only [BitVec.toNat_setWidth]
  omega

/-- A length register refuses a length above its buffer's capacity and takes any other (30_encoding.md R122). -/
theorem writePort_length {r : PortReg} {n : Nat}
    (hr : (r, n) ∈ [(PortReg.rxLen, 1024), (.pduLen, 1024), (.dataLen, 2000)]) (s : State) (v : BitVec 32) :
    if n < v.toNat then writePort s r v = s else readPort (writePort s r v) r = v := by
  simp only [List.mem_cons, Prod.mk.injEq, List.not_mem_nil, or_false] at hr
  split
  · next above => rcases hr with ⟨rfl, rfl⟩ | ⟨rfl, rfl⟩ | ⟨rfl, rfl⟩ <;> exact if_pos above
  · next fits =>
    rcases hr with ⟨rfl, rfl⟩ | ⟨rfl, rfl⟩ | ⟨rfl, rfl⟩ <;>
      (simp only [writePort, gt_iff_lt, if_neg fits]; exact setWidth_setWidth_of_le fits (by decide))

/-- The registers that take any value, with their widths in bits (10_state.md R21). -/
def operandWidths : List (PortReg × Nat) :=
  [(.fc, 8), (.unit, 8), (.bank, 2), (.addr, 16), (.qty, 16), (.val, 16), (.val2, 16), (.waddr, 16), (.wqty, 16),
    (.mtid, 16), (.len0, 32), (.len1, 32), (.len2, 32), (.len3, 32)]

/-- A register reads back the bits it has of what was written (log entry 9). -/
theorem readPort_writePort_self (s : State) (v : BitVec 32) {x : PortReg × Nat} (hx : x ∈ operandWidths) :
    (readPort (writePort s x.1 v) x.1).toNat = v.toNat % 2 ^ x.2 := by
  unfold operandWidths at hx
  fin_cases hx <;> (simp only [readPort, writePort, BitVec.toNat_setWidth]; omega)

/-- What is pending outside is no register. -/
theorem readPort_inputs (s : State) (rest : List Input) (r : PortReg) :
    readPort { s with inputs := rest } r = readPort s r := by
  cases r <;> rfl

/-- Settles O60: the read-only registers, the length registers and the operand registers by what a write does to each;
a read is recorded and leaves the registers alone. -/
theorem portAccess : Obligations.PortAccess := by
  intro s rest
  refine ⟨fun r v hr h => ?_, fun r v n hr h => ?_, fun r v w hr h => ?_, fun r h => ?_⟩
  · rw [step_of_portWrite (by rintro rfl; simp at hr) h, writePort_readOnly hr]
  · exact ⟨_, step_of_portWrite (by rintro rfl; simp at hr) h, writePort_length hr _ v⟩
  · exact ⟨_, step_of_portWrite (by rintro rfl; simp at hr) h, readPort_writePort_self _ v hr,
      fun r' hr' => (readPort_writePort_ne _ v hr').trans (readPort_inputs s rest r')⟩
  · refine ⟨(step_of_input h rfl nofun).trans ?_, rfl⟩
    simp only [applyInput, State.answer, readPort_inputs]

end Sys2Proof.Machine
end
